-- ==== Sys2Proof/Word.lean ====
section
/-! DEFINITION. The word types of the machine and nothing else: every quantity is unsigned (R9). -/

namespace Sys2Proof

/-- One cell of memory, one V register, one timer: 8 bits (R21, R26, R27, R29). -/
abbrev Byte := BitVec 8

/-- An opcode word, `pc`, `I`, a return address: 16 bits (R24, R25, R28, R90). -/
abbrev Word := BitVec 16

/-- The 12-bit absolute address `nnn` of an opcode (R92). -/
abbrev Addr12 := BitVec 12

/-- The number of a V register, selected by a 4-bit field (R21). -/
abbrev RegIx := Fin 16

end Sys2Proof
end

