-- ==== Sys2Proof/Config.lean ====
section
/-! DEFINITION. What is fixed for the machine (R7), what its maker leaves open (R8) and what the host supplies from outside
(R40 to R43, R110, R279). An open value is an `opaque` constant with no body: no proof can see what it is. -/

namespace Sys2Proof

/-- The quirk record (R41): six independent flags, sampled at each Step. `displayWaiting` has no effect on anything. -/
structure Quirks where
  /-- 8xy1, 8xy2 and 8xy3 force VF to 0. -/
  vfZero : Bool
  /-- Fx55 and Fx65 add x + 1 to I. -/
  iIncremented : Bool
  /-- 8xy6 and 8xyE shift Vx instead of Vy. -/
  vxShiftedDirectly : Bool
  /-- Bnnn adds Vx instead of V0. -/
  jumpBits : Bool
  /-- Dxyn clips at the screen edge instead of wrapping. -/
  clipSprites : Bool
  /-- Reserved, unused. -/
  displayWaiting : Bool
deriving DecidableEq, Repr, Inhabited

/-- What the host may do to the machine between two other events (R110, R279). -/
inductive HostEvent where
  /-- R111: the once-a-frame event that decrements the timers. -/
  | tick
  /-- R113: one invocation of the CPU. -/
  | step
  /-- R270. -/
  | reset
  /-- R272, R273: hand a ROM image to the machine. -/
  | loadRom (bytes : List Byte)
  /-- R44, R279: the host's `clear_audio_buffer()`. -/
  | clearAudioBuffer
  /-- R74, R279: write another font over the addresses from 0. -/
  | loadFont (glyphs : List Byte)
deriving DecidableEq, Repr, Inhabited

/-- Everything the host supplies for one event: the event and the inputs a Step samples (R40). -/
structure HostInput where
  event : HostEvent
  /-- The 16 key levels, true = pressed (R42). -/
  keys : Vector Bool 16
  quirks : Quirks
  /-- The byte a Cxnn executed in this Step uses (R43). -/
  randomByte : Byte
deriving DecidableEq, Repr, Inhabited

/-- MEM_SIZE (R7): memory has the byte addresses 0x000 to 0xFFF. -/
def Config.memSize : Nat := 4096

/-- PROGRAM_START (R7): the first ROM byte, and `pc` after reset. -/
def Config.programStart : Nat := 0x200

/-- ROM_MAX (R7): the largest ROM that LoadRom accepts. -/
def Config.romMax : Nat := 3584

/-- The length of FONT_REGION, and so the greatest length of a font image (R7, R8). -/
def Config.fontMax : Nat := 512

/-- FREE VALUE (R8, D21; log 6). FONT_IMAGE as the byte at each address below 0x200; a shorter image is followed by zeros.
It is one image for the whole run: a font the host writes later is not reloaded by Reset (log 20). -/
opaque Config.fontByte : Nat → Byte

/-- FREE VALUE (R8, D20; log 7). BIG_FONT_BASE: the address of big glyph 0, 0 to 4095. -/
opaque Config.bigFontBase : Addr12

/-- FREE VALUE (R8, D20; log 7). BIG_FONT_STRIDE: the bytes between two big glyphs. -/
opaque Config.bigFontStride : Nat

/-- FREE VALUE (log 7). What Fx30 puts into I when the exact sum of R177 does not fit 16 bits: the spec states no result there. -/
opaque Config.bigGlyphBeyond : Nat → Word

/-- FREE VALUE (R8, D19; log 8). RPL_POWERON: byte k of the flag slot before the first Fx75. -/
opaque Config.rplPowerOn : Nat → Byte

/-- FREE VALUE (R8, D7; log 9). PITCH_RESET: `buffer_pitch` after a reset. -/
opaque Config.pitchReset : Byte

/-- FREE VALUE (R40, R279; log 1). The n-th input the host supplies: any event, any keys, any quirks, any random byte. -/
opaque Config.hostInputs : Nat → HostInput

end Sys2Proof
end

