-- ==== Sys2Proof/Syntax.lean ====
section
/-! DEFINITION. The 51 instructions of the opcode table (R93), one constructor per row, in the table's order.
A register field is a `RegIx`, `nn` a byte, `nnn` a 12-bit vector, the operand word of F000 a word (R92).
The 4-bit immediate `n`, the plane mask of Fx01 and the ignored field of Fx02 are naturals, bounded by `Instr.wellFormed`. -/

namespace Sys2Proof

/-- An instruction of the machine (R93). -/
inductive Instr where
  | nop                                  -- row 1, 0000
  | scd (n : Nat)                        -- row 2, 00Cn
  | scu (n : Nat)                        -- row 3, 00Dn
  | cls                                  -- row 4, 00E0
  | ret                                  -- row 5, 00EE
  | scr                                  -- row 6, 00FB
  | scl                                  -- row 7, 00FC
  | exit                                 -- row 8, 00FD
  | low                                  -- row 9, 00FE
  | high                                 -- row 10, 00FF
  | jp (nnn : Addr12)                    -- row 11, 1nnn
  | call (nnn : Addr12)                  -- row 12, 2nnn
  | seImm (x : RegIx) (nn : Byte)        -- row 13, 3xnn
  | sneImm (x : RegIx) (nn : Byte)       -- row 14, 4xnn
  | seReg (x y : RegIx)                  -- row 15, 5xy0
  | save (x y : RegIx)                   -- row 16, 5xy2
  | load (x y : RegIx)                   -- row 17, 5xy3
  | ldImm (x : RegIx) (nn : Byte)        -- row 18, 6xnn
  | addImm (x : RegIx) (nn : Byte)       -- row 19, 7xnn
  | ldReg (x y : RegIx)                  -- row 20, 8xy0
  | orReg (x y : RegIx)                  -- row 21, 8xy1
  | andReg (x y : RegIx)                 -- row 22, 8xy2
  | xorReg (x y : RegIx)                 -- row 23, 8xy3
  | addReg (x y : RegIx)                 -- row 24, 8xy4
  | subReg (x y : RegIx)                 -- row 25, 8xy5
  | shr (x y : RegIx)                    -- row 26, 8xy6
  | subn (x y : RegIx)                   -- row 27, 8xy7
  | shl (x y : RegIx)                    -- row 28, 8xyE
  | sneReg (x y : RegIx)                 -- row 29, 9xy0
  | ldI (nnn : Addr12)                   -- row 30, Annn
  | jpV0 (nnn : Addr12)                  -- row 31, Bnnn
  | rnd (x : RegIx) (nn : Byte)          -- row 32, Cxnn
  | drw (x y : RegIx) (n : Nat)          -- row 33, Dxyn
  | skp (x : RegIx)                      -- row 34, Ex9E
  | sknp (x : RegIx)                     -- row 35, ExA1
  | ldILong (nnnn : Word)                -- row 36, F000 NNNN
  | plane (mask : Nat)                   -- row 37, Fx01 (x is the immediate itself, R92)
  | audio (ignored : Nat)                -- row 38, Fx02 (x is not used, R96)
  | ldVxDt (x : RegIx)                   -- row 39, Fx07
  | ldVxK (x : RegIx)                    -- row 40, Fx0A
  | ldDtVx (x : RegIx)                   -- row 41, Fx15
  | ldStVx (x : RegIx)                   -- row 42, Fx18
  | addI (x : RegIx)                     -- row 43, Fx1E
  | ldF (x : RegIx)                      -- row 44, Fx29
  | ldHf (x : RegIx)                     -- row 45, Fx30
  | bcd (x : RegIx)                      -- row 46, Fx33
  | pitch (x : RegIx)                    -- row 47, Fx3A
  | ldMemVx (x : RegIx)                  -- row 48, Fx55
  | ldVxMem (x : RegIx)                  -- row 49, Fx65
  | ldRVx (x : RegIx)                    -- row 50, Fx75
  | ldVxR (x : RegIx)                    -- row 51, Fx85
deriving DecidableEq, Repr

end Sys2Proof
end

