-- ==== Sys2Proof/WellFormed.lean ====
section
/-! DEFINITION. Which instructions an opcode word can hold: every operand fits its field (R91, R92). The register fields,
`nn`, `nnn` and NNNN fit by their types; the five naturals are checked here. -/

namespace Sys2Proof

/-- Every natural operand fits its 4-bit field: `n` of 00Cn, 00Dn and Dxyn, the mask of Fx01, the ignored bits of Fx02 (R91, R92). -/
def Instr.wellFormed : Instr → Bool
  | .scd n => decide (n < 16)
  | .scu n => decide (n < 16)
  | .drw _ _ n => decide (n < 16)
  | .plane mask => decide (mask < 16)
  | .audio ignored => decide (ignored < 16)
  | .nop => true
  | .cls => true
  | .ret => true
  | .scr => true
  | .scl => true
  | .exit => true
  | .low => true
  | .high => true
  | .jp _ => true
  | .call _ => true
  | .seImm _ _ => true
  | .sneImm _ _ => true
  | .seReg _ _ => true
  | .save _ _ => true
  | .load _ _ => true
  | .ldImm _ _ => true
  | .addImm _ _ => true
  | .ldReg _ _ => true
  | .orReg _ _ => true
  | .andReg _ _ => true
  | .xorReg _ _ => true
  | .addReg _ _ => true
  | .subReg _ _ => true
  | .shr _ _ => true
  | .subn _ _ => true
  | .shl _ _ => true
  | .sneReg _ _ => true
  | .ldI _ => true
  | .jpV0 _ => true
  | .rnd _ _ => true
  | .skp _ => true
  | .sknp _ => true
  | .ldILong _ => true
  | .ldVxDt _ => true
  | .ldVxK _ => true
  | .ldDtVx _ => true
  | .ldStVx _ => true
  | .addI _ => true
  | .ldF _ => true
  | .ldHf _ => true
  | .bcd _ => true
  | .pitch _ => true
  | .ldMemVx _ => true
  | .ldVxMem _ => true
  | .ldRVx _ => true
  | .ldVxR _ => true

end Sys2Proof
end

