-- ==== Sys2Proof/Decode.lean ====
section
/-! DEFINITION. From bytes to instructions and back (30_encoding.md): the opcode table as data (R93), the fields of an opcode
word (R9), the decode procedure (R94), total on any bytes and rejecting by name, and the encoder, from the formats of R91. -/

namespace Sys2Proof

/-! ### Fields of an opcode word (R9, R91) -/

/-- Big-endian: the byte at the lower address is the high byte of the word (R62). -/
def wordOfBytes (hi lo : Byte) : Word := hi ++ lo

/-- The byte of a word that lies at the lower address (R62). -/
def highByte (w : Word) : Byte := BitVec.ofNat 8 (w.toNat / 256)

/-- The byte of a word that lies at the higher address (R62). -/
def lowByte (w : Word) : Byte := BitVec.ofNat 8 w.toNat

/-- `op1 = op[15:12]`. -/
def op1 (op : Word) : Nat := op.toNat / 4096

/-- `op2 = op[11:8]`, the field `x`. -/
def op2 (op : Word) : Nat := op.toNat / 256 % 16

/-- `op3 = op[7:4]`, the field `y`. -/
def op3 (op : Word) : Nat := op.toNat / 16 % 16

/-- `op4 = op[3:0]`, the field `n`. -/
def op4 (op : Word) : Nat := op.toNat % 16

/-- The register number `x`. -/
def xField (op : Word) : RegIx := Fin.ofNat 16 (op2 op)

/-- The register number `y`. -/
def yField (op : Word) : RegIx := Fin.ofNat 16 (op3 op)

/-- `nn = op[7:0] = op3 * 16 + op4`. -/
def nnField (op : Word) : Byte := BitVec.ofNat 8 (op3 op * 16 + op4 op)

/-- `nnn = op[11:0] = op2 * 256 + nn`. -/
def nnnField (op : Word) : Addr12 := BitVec.ofNat 12 (op2 op * 256 + (nnField op).toNat)

/-- EXT_MARKER (R7): the opcode word of the one 4-byte instruction, and the word the skip helper looks for (R90, R134). -/
def extMarker : Word := 0xF000

/-! ### The opcode table as data (R93) -/

/-- One row of the opcode table: `op` is this row's instruction exactly when `op &&& mask = pattern` (R93). -/
structure OpcodeRow where
  row : Nat
  pattern : Word
  mask : Word
deriving DecidableEq, Repr

/-- The 51 rows of R93, in the table's order. -/
def opcodeTable : List OpcodeRow :=
  [⟨1, 0x0000, 0xFFFF⟩, ⟨2, 0x00C0, 0xFFF0⟩, ⟨3, 0x00D0, 0xFFF0⟩, ⟨4, 0x00E0, 0xFFFF⟩, ⟨5, 0x00EE, 0xFFFF⟩,
   ⟨6, 0x00FB, 0xFFFF⟩, ⟨7, 0x00FC, 0xFFFF⟩, ⟨8, 0x00FD, 0xFFFF⟩, ⟨9, 0x00FE, 0xFFFF⟩, ⟨10, 0x00FF, 0xFFFF⟩] ++
  [⟨11, 0x1000, 0xF000⟩, ⟨12, 0x2000, 0xF000⟩, ⟨13, 0x3000, 0xF000⟩, ⟨14, 0x4000, 0xF000⟩, ⟨15, 0x5000, 0xF00F⟩,
   ⟨16, 0x5002, 0xF00F⟩, ⟨17, 0x5003, 0xF00F⟩, ⟨18, 0x6000, 0xF000⟩, ⟨19, 0x7000, 0xF000⟩, ⟨20, 0x8000, 0xF00F⟩] ++
  [⟨21, 0x8001, 0xF00F⟩, ⟨22, 0x8002, 0xF00F⟩, ⟨23, 0x8003, 0xF00F⟩, ⟨24, 0x8004, 0xF00F⟩, ⟨25, 0x8005, 0xF00F⟩,
   ⟨26, 0x8006, 0xF00F⟩, ⟨27, 0x8007, 0xF00F⟩, ⟨28, 0x800E, 0xF00F⟩, ⟨29, 0x9000, 0xF00F⟩, ⟨30, 0xA000, 0xF000⟩] ++
  [⟨31, 0xB000, 0xF000⟩, ⟨32, 0xC000, 0xF000⟩, ⟨33, 0xD000, 0xF000⟩, ⟨34, 0xE09E, 0xF0FF⟩, ⟨35, 0xE0A1, 0xF0FF⟩,
   ⟨36, 0xF000, 0xFFFF⟩, ⟨37, 0xF001, 0xF0FF⟩, ⟨38, 0xF002, 0xF0FF⟩, ⟨39, 0xF007, 0xF0FF⟩, ⟨40, 0xF00A, 0xF0FF⟩] ++
  [⟨41, 0xF015, 0xF0FF⟩, ⟨42, 0xF018, 0xF0FF⟩, ⟨43, 0xF01E, 0xF0FF⟩, ⟨44, 0xF029, 0xF0FF⟩, ⟨45, 0xF030, 0xF0FF⟩,
   ⟨46, 0xF033, 0xF0FF⟩, ⟨47, 0xF03A, 0xF0FF⟩, ⟨48, 0xF055, 0xF0FF⟩, ⟨49, 0xF065, 0xF0FF⟩, ⟨50, 0xF075, 0xF0FF⟩,
   ⟨51, 0xF085, 0xF0FF⟩]

/-- The row of R93 an instruction belongs to. -/
def Instr.row : Instr → Nat
  | .nop => 1
  | .scd _ => 2
  | .scu _ => 3
  | .cls => 4
  | .ret => 5
  | .scr => 6
  | .scl => 7
  | .exit => 8
  | .low => 9
  | .high => 10
  | .jp _ => 11
  | .call _ => 12
  | .seImm _ _ => 13
  | .sneImm _ _ => 14
  | .seReg _ _ => 15
  | .save _ _ => 16
  | .load _ _ => 17
  | .ldImm _ _ => 18
  | .addImm _ _ => 19
  | .ldReg _ _ => 20
  | .orReg _ _ => 21
  | .andReg _ _ => 22
  | .xorReg _ _ => 23
  | .addReg _ _ => 24
  | .subReg _ _ => 25
  | .shr _ _ => 26
  | .subn _ _ => 27
  | .shl _ _ => 28
  | .sneReg _ _ => 29
  | .ldI _ => 30
  | .jpV0 _ => 31
  | .rnd _ _ => 32
  | .drw _ _ _ => 33
  | .skp _ => 34
  | .sknp _ => 35
  | .ldILong _ => 36
  | .plane _ => 37
  | .audio _ => 38
  | .ldVxDt _ => 39
  | .ldVxK _ => 40
  | .ldDtVx _ => 41
  | .ldStVx _ => 42
  | .addI _ => 43
  | .ldF _ => 44
  | .ldHf _ => 45
  | .bcd _ => 46
  | .pitch _ => 47
  | .ldMemVx _ => 48
  | .ldVxMem _ => 49
  | .ldRVx _ => 50
  | .ldVxR _ => 51

/-! ### Decoding (R94, R95) -/

/-- Why bytes are no instruction. -/
inductive Reject where
  /-- Fewer than two bytes: there is no opcode word (the fetch of R116 cannot read it). -/
  | noOpcodeWord
  /-- The opcode word is 0xF000 and fewer than two bytes follow it: there is no operand word (R171). -/
  | noOperandWord
  /-- The opcode word matches no row of the table (R95). -/
  | unknownOpcode (op : Word)
deriving DecidableEq, Repr

/-- What the decoder makes of some bytes: an instruction and the bytes after it, or why there is none. -/
inductive Decoded where
  | ok (i : Instr) (rest : List Byte)
  | reject (why : Reject)
deriving DecidableEq, Repr

/-- Within `op1 = 0` the whole word is compared, or `op[15:4]` for the two scrolls (R94, rows 1 to 10). -/
def decodeGroup0 (op : Word) : Option Instr :=
  if op.toNat / 16 = 0x00C then some (.scd (op4 op))
  else if op.toNat / 16 = 0x00D then some (.scu (op4 op))
  else match op.toNat with
    | 0x0000 => some .nop
    | 0x00E0 => some .cls
    | 0x00EE => some .ret
    | 0x00FB => some .scr
    | 0x00FC => some .scl
    | 0x00FD => some .exit
    | 0x00FE => some .low
    | 0x00FF => some .high
    | _ => none

/-- Within `op1 = 5`, `op4` selects (R94, rows 15 to 17). -/
def decodeGroup5 (op : Word) : Option Instr :=
  match op4 op with
  | 0 => some (.seReg (xField op) (yField op))
  | 2 => some (.save (xField op) (yField op))
  | 3 => some (.load (xField op) (yField op))
  | _ => none

/-- Within `op1 = 8`, `op4` selects (R94, rows 20 to 28). -/
def decodeGroup8 (op : Word) : Option Instr :=
  match op4 op with
  | 0x0 => some (.ldReg (xField op) (yField op))
  | 0x1 => some (.orReg (xField op) (yField op))
  | 0x2 => some (.andReg (xField op) (yField op))
  | 0x3 => some (.xorReg (xField op) (yField op))
  | 0x4 => some (.addReg (xField op) (yField op))
  | 0x5 => some (.subReg (xField op) (yField op))
  | 0x6 => some (.shr (xField op) (yField op))
  | 0x7 => some (.subn (xField op) (yField op))
  | 0xE => some (.shl (xField op) (yField op))
  | _ => none

/-- Within `op1 = E`, the low byte selects (R94, rows 34 and 35). -/
def decodeGroupE (op : Word) : Option Instr :=
  match (nnField op).toNat with
  | 0x9E => some (.skp (xField op))
  | 0xA1 => some (.sknp (xField op))
  | _ => none

/-- Within `op1 = F`, the low byte selects (R94, rows 37 to 51; row 36 is decided before, by the whole word). -/
def decodeGroupF (op : Word) : Option Instr :=
  match (nnField op).toNat with
  | 0x01 => some (.plane (op2 op))
  | 0x02 => some (.audio (op2 op))
  | 0x07 => some (.ldVxDt (xField op))
  | 0x0A => some (.ldVxK (xField op))
  | 0x15 => some (.ldDtVx (xField op))
  | 0x18 => some (.ldStVx (xField op))
  | 0x1E => some (.addI (xField op))
  | 0x29 => some (.ldF (xField op))
  | 0x30 => some (.ldHf (xField op))
  | 0x33 => some (.bcd (xField op))
  | 0x3A => some (.pitch (xField op))
  | 0x55 => some (.ldMemVx (xField op))
  | 0x65 => some (.ldVxMem (xField op))
  | 0x75 => some (.ldRVx (xField op))
  | 0x85 => some (.ldVxR (xField op))
  | _ => none

/-- The 2-byte instruction of an opcode word: select by `op1`, then by the sub-nibbles (R94). -/
def decodeOpcode (op : Word) : Option Instr :=
  match op1 op with
  | 0x0 => decodeGroup0 op
  | 0x1 => some (.jp (nnnField op))
  | 0x2 => some (.call (nnnField op))
  | 0x3 => some (.seImm (xField op) (nnField op))
  | 0x4 => some (.sneImm (xField op) (nnField op))
  | 0x5 => decodeGroup5 op
  | 0x6 => some (.ldImm (xField op) (nnField op))
  | 0x7 => some (.addImm (xField op) (nnField op))
  | 0x8 => decodeGroup8 op
  | 0x9 => if op4 op = 0 then some (.sneReg (xField op) (yField op)) else none
  | 0xA => some (.ldI (nnnField op))
  | 0xB => some (.jpV0 (nnnField op))
  | 0xC => some (.rnd (xField op) (nnField op))
  | 0xD => some (.drw (xField op) (yField op) (op4 op))
  | 0xE => decodeGroupE op
  | _ => decodeGroupF op

/-- Read one instruction from the front of some bytes: the instruction and the bytes after it, or why there is none.
The length is told by the first word alone: four bytes for 0xF000, else two (R90). -/
def decode : List Byte → Decoded
  | b0 :: b1 :: rest =>
    if wordOfBytes b0 b1 = extMarker then
      match rest with
      | b2 :: b3 :: rest' => .ok (.ldILong (wordOfBytes b2 b3)) rest'
      | _ => .reject .noOperandWord
    else
      match decodeOpcode (wordOfBytes b0 b1) with
      | some i => .ok i rest
      | none => .reject (.unknownOpcode (wordOfBytes b0 b1))
  | _ => .reject .noOpcodeWord

/-! ### Encoding (R91, R92) -/

/-- Format N: 00Cn and 00Dn, `base` holding the fixed nibbles. -/
def formatN (base n : Nat) : Word := BitVec.ofNat 16 (base + n)

/-- Format NNN. -/
def formatNNN (k : Nat) (nnn : Addr12) : Word := BitVec.ofNat 16 (k * 4096 + nnn.toNat)

/-- Format XNN, and format X with the fixed low byte in place of `nn`. -/
def formatXNN (k x nn : Nat) : Word := BitVec.ofNat 16 (k * 4096 + x * 256 + nn)

/-- Format XYN, and format XY with the fixed low nibble in place of `n`. -/
def formatXYN (k x y n : Nat) : Word := BitVec.ofNat 16 (k * 4096 + x * 256 + y * 16 + n)

/-- The words of an instruction, the opcode word first (R91, R93). -/
def encodeWords : Instr → List Word
  | .nop => [0x0000]
  | .scd n => [formatN 0x00C0 n]
  | .scu n => [formatN 0x00D0 n]
  | .cls => [0x00E0]
  | .ret => [0x00EE]
  | .scr => [0x00FB]
  | .scl => [0x00FC]
  | .exit => [0x00FD]
  | .low => [0x00FE]
  | .high => [0x00FF]
  | .jp nnn => [formatNNN 0x1 nnn]
  | .call nnn => [formatNNN 0x2 nnn]
  | .seImm x nn => [formatXNN 0x3 x nn.toNat]
  | .sneImm x nn => [formatXNN 0x4 x nn.toNat]
  | .seReg x y => [formatXYN 0x5 x y 0x0]
  | .save x y => [formatXYN 0x5 x y 0x2]
  | .load x y => [formatXYN 0x5 x y 0x3]
  | .ldImm x nn => [formatXNN 0x6 x nn.toNat]
  | .addImm x nn => [formatXNN 0x7 x nn.toNat]
  | .ldReg x y => [formatXYN 0x8 x y 0x0]
  | .orReg x y => [formatXYN 0x8 x y 0x1]
  | .andReg x y => [formatXYN 0x8 x y 0x2]
  | .xorReg x y => [formatXYN 0x8 x y 0x3]
  | .addReg x y => [formatXYN 0x8 x y 0x4]
  | .subReg x y => [formatXYN 0x8 x y 0x5]
  | .shr x y => [formatXYN 0x8 x y 0x6]
  | .subn x y => [formatXYN 0x8 x y 0x7]
  | .shl x y => [formatXYN 0x8 x y 0xE]
  | .sneReg x y => [formatXYN 0x9 x y 0x0]
  | .ldI nnn => [formatNNN 0xA nnn]
  | .jpV0 nnn => [formatNNN 0xB nnn]
  | .rnd x nn => [formatXNN 0xC x nn.toNat]
  | .drw x y n => [formatXYN 0xD x y n]
  | .skp x => [formatXNN 0xE x 0x9E]
  | .sknp x => [formatXNN 0xE x 0xA1]
  | .ldILong nnnn => [extMarker, nnnn]
  | .plane mask => [formatXNN 0xF mask 0x01]
  | .audio ignored => [formatXNN 0xF ignored 0x02]
  | .ldVxDt x => [formatXNN 0xF x 0x07]
  | .ldVxK x => [formatXNN 0xF x 0x0A]
  | .ldDtVx x => [formatXNN 0xF x 0x15]
  | .ldStVx x => [formatXNN 0xF x 0x18]
  | .addI x => [formatXNN 0xF x 0x1E]
  | .ldF x => [formatXNN 0xF x 0x29]
  | .ldHf x => [formatXNN 0xF x 0x30]
  | .bcd x => [formatXNN 0xF x 0x33]
  | .pitch x => [formatXNN 0xF x 0x3A]
  | .ldMemVx x => [formatXNN 0xF x 0x55]
  | .ldVxMem x => [formatXNN 0xF x 0x65]
  | .ldRVx x => [formatXNN 0xF x 0x75]
  | .ldVxR x => [formatXNN 0xF x 0x85]

/-- The bytes of a list of words as memory holds them: each word big-endian, the first at the lowest address (R62). -/
def bytesOfWords : List Word → List Byte
  | [] => []
  | w :: ws => highByte w :: lowByte w :: bytesOfWords ws

/-- The bytes of an instruction as memory holds them. -/
def encode (i : Instr) : List Byte := bytesOfWords (encodeWords i)

/-- How many bytes an instruction takes (R90). -/
def Instr.lengthBytes : Instr → Nat
  | .ldILong _ => 4
  | _ => 2

/-! ### The table's numbering of bits -/

/-- The four bytes of an instruction numbered as spec/opcode_table.json numbers it (bits 15..0 the first word, 31..16 the second),
every bit from `nbits` up taken as 0. -/
def tableBytes (nbits w : Nat) : List Byte :=
  let v := w % 2 ^ nbits
  bytesOfWords [BitVec.ofNat 16 v, BitVec.ofNat 16 (v / 65536)]

/-- What the decoder reads from an instruction with the table's bits `w`. -/
def decodeTableWord (nbits w : Nat) : Option Instr :=
  match decode (tableBytes nbits w) with
  | .ok i _ => some i
  | .reject _ => none

end Sys2Proof
end

