-- ==== Sys2Proof/Machine/State.lean ====
section
/-! DEFINITION. The state of the machine (10_state.md R20: the complete list), the model's own fields for the inputs and outputs of
a Step, the reasons the model can stop, and the state right after power-on (R46, R271). Every field is plain data. -/

namespace Sys2Proof.Machine

/-- Main memory as (address, byte) pairs, addresses strictly rising, no entry equal to what an unlisted address reads as
(log 12); its operations are in Machine/Ops.lean. -/
abbrev Memory := List Host.Cell

/-- The resolution (R30). -/
inductive Resolution where
  | low
  | high
deriving DecidableEq, Repr

/-- The causes of a fatal abort (R242). -/
inductive AbortReason where
  | stackUnderflow
  | memoryOutOfRange
  | keyIndexOutOfRange
deriving DecidableEq, Repr

/-- The five notifications (R246). -/
inductive Message where
  | resolutionChanged (r : Resolution)
  | unknownOpcode (op : Word)
  | waitingForKey
  | audioBufferUpdated
  | exitRequested
deriving DecidableEq, Repr

/-- A pending key wait (R33): the register to write and, once one is latched, the key whose release ends the wait. -/
structure KeyWait where
  register : RegIx
  key : Option (Fin 16)
deriving DecidableEq, Repr

/-- The whole state: R20's list, then the model's own fields (log 1, log 3). -/
structure State where
  /-- V0 to VF (R21, R22). -/
  v : Vector Byte 16
  /-- The program counter (R24). -/
  pc : Word
  /-- The index register I (R25). -/
  i : Word
  /-- The delay timer (R26). -/
  dt : Byte
  /-- The sound timer (R27). -/
  st : Byte
  /-- The return addresses, the last pushed at the end (R28, R70, R71). -/
  stack : List Word
  /-- Main memory (R29). -/
  mem : Memory
  /-- The resolution (R30). -/
  res : Resolution
  /-- Pixel plane 0, row-major (R31). -/
  plane0 : List Bool
  /-- Pixel plane 1, row-major (R31). -/
  plane1 : List Bool
  /-- The active plane mask, bit p selects plane p (R32). -/
  activePlane : BitVec 2
  /-- The key-wait sub-state (R33). -/
  waiting : Option KeyWait
  /-- The audio pattern buffer (R34). -/
  audioBuffer : Vector Byte 16
  /-- The pitch register (R35). -/
  bufferPitch : Byte
  /-- The persistent flag slot (R36). -/
  rpl : Vector Byte 16
  /-- The exit-request flag (R37). -/
  exitReq : Bool
  /-- Whether a ROM is loaded and running (R38). -/
  running : Bool
  /-- The fatal abort that ended the run, if any (R39). -/
  halt : Option AbortReason
  /-- MODEL'S OWN: what the host supplies for the next event (R40; log 1). -/
  inp : HostInput
  /-- MODEL'S OWN: how many inputs the host has supplied so far (log 1). -/
  inputCount : Nat
  /-- MODEL'S OWN: the notifications the latest event returned (R45; log 3). -/
  out : List Message
deriving DecidableEq, Repr

/-- Why the model stops with a fault. -/
inductive Fault where
  /-- The host wrote a font longer than the 512 bytes R8 allows: something R279 says it never does and of which the spec says
  nothing. Raised by the `loadFont` event only, by no instruction. Safe: the model stops where the hardware might go on (log 13). -/
  | hostBreach
deriving DecidableEq, Repr

/-- Why the model refuses an instruction. -/
inductive Refusal where
  /-- An instruction with no meaning yet, refused by name in `exec`'s arm. Safe: the model stops where the hardware goes on. -/
  | notModelled (mnemonic : String)
deriving DecidableEq, Repr

/-- The answer of a meaning and of a step. -/
abbrev Result := Host.Outcome State Fault Refusal

/-- A plane at power-on: the 64 × 32 pixels of the low resolution, all 0 (R46). -/
def resetPlane : List Bool := List.replicate 2048 false

/-- The machine at power-on (R271): the values of R46, with the flag slot unknown, and the model's own fields as log 1, 2 and 3 say. -/
def State.reset : State where
  v := Vector.replicate 16 0
  pc := 0x200
  i := 0
  dt := 0
  st := 0
  stack := []
  mem := []
  res := .low
  plane0 := resetPlane
  plane1 := resetPlane
  activePlane := 1
  waiting := none
  audioBuffer := Vector.replicate 16 0
  bufferPitch := Config.pitchReset
  rpl := Vector.ofFn fun k => Config.rplPowerOn k
  exitReq := false
  running := false
  halt := none
  inp :=
    { event := .step
      keys := Vector.replicate 16 false
      quirks := ⟨false, false, false, false, false, false⟩
      randomByte := 0 }
  inputCount := 0
  out := []

end Sys2Proof.Machine
end

