-- ==== Sys2Proof/Machine/Ops.lean ====
section
/-! DEFINITION. The named operations every meaning is built from: memory (20_memory.md), registers, the stack unit, the taking of
an abort and the way back from it (60_exceptions.md, R270), the notifications (R246). -/

namespace Sys2Proof.Machine

/-! ### Memory (R60 to R66) -/

/-- What an address reads as after a reset, and so what an unlisted address reads as: the font image in the font region,
zero elsewhere (R46, R61; log 6, log 12). -/
def Memory.initial (a : Nat) : Byte := if a < Config.fontMax then Config.fontByte a else 0

/-- The byte at an address (R60). -/
def Memory.get : Memory → Nat → Byte
  | [], a => Memory.initial a
  | (c, b) :: m, a => if a = c then b else Memory.get m a

/-- Put an entry before the first entry with a greater address. -/
def Memory.insert (a : Nat) (b : Byte) : Memory → Memory
  | [] => [(a, b)]
  | (c, x) :: m => if a < c then (a, b) :: (c, x) :: m else (c, x) :: Memory.insert a b m

/-- Write one byte, keeping the canonical form: a byte equal to what the unlisted address reads as leaves no entry. -/
def Memory.set (m : Memory) (a : Nat) (b : Byte) : Memory :=
  if b = Memory.initial a then m.filter (fun c => c.1 ≠ a)
  else Memory.insert a b (m.filter (fun c => c.1 ≠ a))

/-- The canonical form: addresses strictly rising and inside memory, no entry equal to what an unlisted address reads as (log 12). -/
abbrev Memory.wf (m : Memory) : Prop :=
  m.Pairwise (fun c d => c.1 < d.1) ∧ ∀ c ∈ m, c.1 < Config.memSize ∧ c.2 ≠ Memory.initial c.1

/-- Whether the `n` bytes from address `a` all exist, addresses compared as exact naturals (R64); no byte at all is always in range. -/
def accessOk (a n : Nat) : Bool := decide (n = 0 ∨ a + n ≤ Config.memSize)

/-- Write bytes at increasing addresses from `a` on (R63, R179). -/
def Memory.setBytes (m : Memory) (a : Nat) : List Byte → Memory
  | [] => m
  | b :: bs => Memory.setBytes (m.set a b) (a + 1) bs

/-- The bytes that exist among the `n` from address `a` on, in order. -/
def Memory.window (m : Memory) (a n : Nat) : List Byte :=
  (List.range (min n (Config.memSize - a))).map fun k => m.get (a + k)

/-- `MemRead(a, 2)`: the big-endian word at `a`, none where a byte of it does not exist (R10, R62, R64). -/
def Memory.readWord (m : Memory) (a : Nat) : Option Word :=
  if accessOk a 2 then some (wordOfBytes (m.get a) (m.get (a + 1))) else none

/-! ### Registers (R21, R23) -/

/-- `V[x]`. -/
def State.reg (s : State) (x : RegIx) : Byte := s.v.get x

/-- `V[x] <- b`. -/
def State.setReg (s : State) (x : RegIx) (b : Byte) : State := { s with v := s.v.set x b }

/-- The number of VF, the flag register (R22). -/
def vF : RegIx := 15

/-- Result first, flag second: with x = F the flag survives (R152, C7). -/
def State.setRegFlag (s : State) (x : RegIx) (result flag : Byte) : State := (s.setReg x result).setReg vF flag

/-- The fetch's `pc <- pc + 2` (R116). -/
def State.advance (s : State) : State := { s with pc := s.pc + 2 }

/-! ### The stack unit (R70 to R72) -/

/-- `Push(v)`: never fails (R70). -/
def State.push (s : State) (w : Word) : State := { s with stack := s.stack ++ [w] }

/-- `Pop()`: the last element and the state without it, none on the empty stack (R71, R72). -/
def State.pop (s : State) : Option (Word × State) :=
  match s.stack.getLast? with
  | some w => some (w, { s with stack := s.stack.dropLast })
  | none => none

/-! ### Notifications (R246) -/

/-- `emit m`: append to the list the Step returns (R10). -/
def State.emit (s : State) (m : Message) : State := { s with out := s.out ++ [m] }

/-! ### Taking an abort, and the way back (R241, R244, R270) -/

/-- `raise Abort(reason)`: `halt <- reason`, nothing else of the instruction happens, no handler is entered (R241, R243; log 5). -/
def State.raiseAbort (s : State) (r : AbortReason) : State := { s with halt := some r }

/-- The answer of an instruction that aborts: the Step ends in the halted state (R241). -/
def abort (r : AbortReason) (s : State) : Result := .next (s.raiseAbort r)

/-- Reset, the one way back from an abort besides a valid LoadRom (R244): every element takes its value of R46, but the flag slot
is not touched (R270). The host's inputs are outside the block and stay as they are. DESIGN CHOICE (unsafe; log 20): the font reloaded is
the original FONT_IMAGE also after the host has re-selected another, a point R46, R74 and R270 leave open. -/
def State.resetBlock (s : State) : State :=
  { State.reset with rpl := s.rpl, inp := s.inp, inputCount := s.inputCount }

/-- Do `k` when the `n` bytes from `a` on exist, abort otherwise: the check of the whole range before anything is written (R64, R179). -/
def withRange (a n : Nat) (s : State) (k : Result) : Result :=
  if accessOk a n then k else abort .memoryOutOfRange s

end Sys2Proof.Machine
end

