-- ==== Sys2Proof/Machine/Flags.lean ====
section
/-! DEFINITION. The flag computations: what VF gets (R22, R164). -/

namespace Sys2Proof.Machine

/-- A flag as VF holds it: 1 or 0. -/
def flagByte (b : Bool) : Byte := if b then 1 else 0

/-- Carry out of bit 7: the exact sum is above 255 (R157). -/
def carryOut (a b : Byte) : Bool := decide (255 < a.toNat + b.toNat)

/-- NOT borrow of `a − b`: a borrow is needed exactly when `a < b`; at equality there is none (R158, R160, D9). -/
def notBorrow (a b : Byte) : Bool := decide (b.toNat ≤ a.toNat)

/-- The bit a right shift by one moves out: bit 0 (R159). -/
def shiftedOutRight (src : Byte) : Bool := src.getLsbD 0

/-- The bit a left shift by one moves out: bit 7 (R161). -/
def shiftedOutLeft (src : Byte) : Bool := src.getLsbD 7

/-- `if Q.vf_zero then V[F] <- 0`, after 8xy1, 8xy2 and 8xy3 (R154 to R156). -/
def State.forceVfZero (s : State) : State := if s.inp.quirks.vfZero then s.setReg vF 0 else s

end Sys2Proof.Machine
end

