-- ==== Sys2Proof/Machine/Operands.lean ====
section
/-! DEFINITION. The operand forms: the source of a shift, the register of Bnnn, register ranges, keys, the glyph addresses,
and the skip helper, whose operand is the word that would come next. -/

namespace Sys2Proof.Machine

/-- `I` as the exact natural that address arithmetic starts from (R64, R179). -/
def State.iAddr (s : State) : Nat := s.i.toNat

/-- The source of 8xy6 and 8xyE: Vx under `vx_shifted_directly`, else Vy (R159, R161). -/
def State.shiftSource (s : State) (x y : RegIx) : Byte :=
  if s.inp.quirks.vxShiftedDirectly then s.reg x else s.reg y

/-- The register Bnnn adds: `V[nnn[11:8]]` under `jump_bits`, else V0 (R133, R91). -/
def State.jumpRegister (s : State) (nnn : Addr12) : RegIx :=
  if s.inp.quirks.jumpBits then Fin.ofNat 16 (nnn.toNat / 256) else 0

/-- `|x − y|`, the distance of two register numbers (R182). -/
def regDistance (x y : RegIx) : Nat := if x ≤ y then y.val - x.val else x.val - y.val

/-- The registers from x to y, both ends included, ascending or descending as x and y ask (R182). -/
def regRange (x y : RegIx) : List RegIx :=
  (List.range (regDistance x y + 1)).map fun k => if x ≤ y then Fin.ofNat 16 (x.val + k) else Fin.ofNat 16 (x.val - k)

/-- The values of the registers from x to y, in that order. -/
def State.regBytes (s : State) (x y : RegIx) : List Byte := (regRange x y).map s.reg

/-- The registers after `V[r_k] <- MemRead(a + k, 1)` for the registers r_k from x to y (R181, R183). -/
def loadRegs (v : Vector Byte 16) (m : Memory) (a : Nat) (x y : RegIx) : Vector Byte 16 :=
  Vector.ofFn fun r => if r ∈ regRange x y then m.get (a + regDistance x r) else v.get r

/-- `dst[k] <- src[k]` for k in 0..x: the copies between the registers and the flag slot (R184, R185). -/
def copyUpTo (x : RegIx) (src dst : Vector Byte 16) : Vector Byte 16 :=
  Vector.ofFn fun k => if k ≤ x then src.get k else dst.get k

/-- `if Q.i_incremented then I <- I + x + 1` (R180, R181). -/
def State.incrementI (s : State) (x : RegIx) : State :=
  if s.inp.quirks.iIncremented then { s with i := BitVec.ofNat 16 (s.i.toNat + x.val + 1) } else s

/-- The address of the 5-byte glyph for a register value, not masked to a digit (R176, D33). -/
def smallGlyph (b : Byte) : Word := BitVec.ofNat 16 (b.toNat * 5)

/-- `BIG_FONT_BASE + d * BIG_FONT_STRIDE` for `d = V[x] & 0x0F` (R177), exact. -/
def bigGlyphSum (b : Byte) : Nat := Config.bigFontBase.toNat + (b &&& 0x0F#8).toNat * Config.bigFontStride

/-- What Fx30 puts into I: the sum where it fits 16 bits, else a free value (R177; log 7). -/
def bigGlyph (b : Byte) : Word :=
  if bigGlyphSum b < 65536 then BitVec.ofNat 16 (bigGlyphSum b) else Config.bigGlyphBeyond (bigGlyphSum b)

/-- The three decimal digits of a byte, hundreds first (R178). -/
def bcdDigits (b : Byte) : List Byte :=
  [BitVec.ofNat 8 (b.toNat / 100), BitVec.ofNat 8 (b.toNat / 10 % 10), BitVec.ofNat 8 (b.toNat % 100 % 10)]

/-- The level of key `k` as sampled at this Step (R42). -/
def State.keyDown (s : State) (k : Fin 16) : Bool := s.inp.keys.get k

/-- The key a register value names, none above 15 (R141, D11). -/
def keyIndex (b : Byte) : Option (Fin 16) := if h : b.toNat < 16 then some ⟨b.toNat, h⟩ else none

/-- `Skip()`: look at the word at the post-fetch pc and pass 4 bytes when it is 0xF000, else 2 (R134). -/
def skip (s : State) : Result :=
  match s.mem.readWord s.pc.toNat with
  | some w => .next { s with pc := if w = extMarker then s.pc + 4 else s.pc + 2 }
  | none => abort .memoryOutOfRange s

/-- `if c then Skip()`: no word is read when the condition does not hold (R134, D30). -/
def skipIf (c : Bool) (s : State) : Result := if c then skip s else .next s

end Sys2Proof.Machine
end

