-- ==== Sys2Proof/Machine/Alu.lean ====
section
/-! DEFINITION. The register file and ALU instructions (42_alu.md R150 to R164). Operands are read before anything is written (R23);
where VF is also written, it is written second (R152). -/

namespace Sys2Proof.Machine

/-- LD Vx, nn (R150). -/
def execLdImm (x : RegIx) (nn : Byte) (s : State) : Result := .next (s.setReg x nn)

/-- ADD Vx, nn (R151): wraps, VF is not written. -/
def execAddImm (x : RegIx) (nn : Byte) (s : State) : Result :=
  .next (s.setReg x (BitVec.ofNat 8 ((s.reg x).toNat + nn.toNat)))

/-- LD Vx, Vy (R153). -/
def execLdReg (x y : RegIx) (s : State) : Result := .next (s.setReg x (s.reg y))

/-- OR Vx, Vy (R154). -/
def execOrReg (x y : RegIx) (s : State) : Result := .next (s.setReg x (s.reg x ||| s.reg y)).forceVfZero

/-- AND Vx, Vy (R155). -/
def execAndReg (x y : RegIx) (s : State) : Result := .next (s.setReg x (s.reg x &&& s.reg y)).forceVfZero

/-- XOR Vx, Vy (R156). -/
def execXorReg (x y : RegIx) (s : State) : Result := .next (s.setReg x (s.reg x ^^^ s.reg y)).forceVfZero

/-- ADD Vx, Vy (R157). -/
def execAddReg (x y : RegIx) (s : State) : Result :=
  .next (s.setRegFlag x (BitVec.ofNat 8 ((s.reg x).toNat + (s.reg y).toNat)) (flagByte (carryOut (s.reg x) (s.reg y))))

/-- `(a − b) mod 256`, computed exactly and then narrowed (R158, R160). -/
def subWrapped (a b : Byte) : Byte := BitVec.ofInt 8 ((a.toNat : Int) - (b.toNat : Int))

/-- SUB Vx, Vy (R158). -/
def execSubReg (x y : RegIx) (s : State) : Result :=
  .next (s.setRegFlag x (subWrapped (s.reg x) (s.reg y)) (flagByte (notBorrow (s.reg x) (s.reg y))))

/-- SHR Vx, Vy (R159): a logical shift by one. -/
def execShr (x y : RegIx) (s : State) : Result :=
  .next (s.setRegFlag x (s.shiftSource x y >>> 1) (flagByte (shiftedOutRight (s.shiftSource x y))))

/-- SUBN Vx, Vy (R160): Vy − Vx. -/
def execSubn (x y : RegIx) (s : State) : Result :=
  .next (s.setRegFlag x (subWrapped (s.reg y) (s.reg x)) (flagByte (notBorrow (s.reg y) (s.reg x))))

/-- SHL Vx, Vy (R161). -/
def execShl (x y : RegIx) (s : State) : Result :=
  .next (s.setRegFlag x (s.shiftSource x y <<< 1) (flagByte (shiftedOutLeft (s.shiftSource x y))))

/-- RND Vx, nn (R162): the byte is the input sampled at this Step, under no law (R43, D22). -/
def execRnd (x : RegIx) (nn : Byte) (s : State) : Result := .next (s.setReg x (s.inp.randomByte &&& nn))

end Sys2Proof.Machine
end

