-- ==== Sys2Proof/Machine/Control.lean ====
section
/-! DEFINITION. Return, jumps, call, compare-and-skip, key skips (41_control_flow.md R130 to R143).
`s` is the state after the fetch. -/

namespace Sys2Proof.Machine

/-- RET (R130): pc is the popped value; StackUnderflow on the empty stack. -/
def execRet (s : State) : Result :=
  match s.pop with
  | some (w, s') => .next { s' with pc := w }
  | none => abort .stackUnderflow s

/-- JP nnn (R131). -/
def execJp (nnn : Addr12) (s : State) : Result := .next { s with pc := nnn.setWidth 16 }

/-- CALL nnn (R132): push the post-fetch pc, then jump. -/
def execCall (nnn : Addr12) (s : State) : Result := .next { s.push s.pc with pc := nnn.setWidth 16 }

/-- JP V0, nnn (R133): the sum is exact and not reduced to 12 bits. -/
def execJpV0 (nnn : Addr12) (s : State) : Result :=
  .next { s with pc := BitVec.ofNat 16 (nnn.toNat + (s.reg (s.jumpRegister nnn)).toNat) }

/-- SE Vx, nn (R135). -/
def execSeImm (x : RegIx) (nn : Byte) (s : State) : Result := skipIf (s.reg x == nn) s

/-- SNE Vx, nn (R136). -/
def execSneImm (x : RegIx) (nn : Byte) (s : State) : Result := skipIf (s.reg x != nn) s

/-- SE Vx, Vy (R137). -/
def execSeReg (x y : RegIx) (s : State) : Result := skipIf (s.reg x == s.reg y) s

/-- SNE Vx, Vy (R138). -/
def execSneReg (x y : RegIx) (s : State) : Result := skipIf (s.reg x != s.reg y) s

/-- SKP Vx (R142): skip if the key Vx names is pressed; KeyIndexOutOfRange above 15, before the skip's own check (R248). -/
def execSkp (x : RegIx) (s : State) : Result :=
  match keyIndex (s.reg x) with
  | some k => skipIf (s.keyDown k) s
  | none => abort .keyIndexOutOfRange s

/-- SKNP Vx (R143): skip if the key Vx names is not pressed. -/
def execSknp (x : RegIx) (s : State) : Result :=
  match keyIndex (s.reg x) with
  | some k => skipIf (!s.keyDown k) s
  | none => abort .keyIndexOutOfRange s

end Sys2Proof.Machine
end

