-- ==== Sys2Proof/Machine/Devices.lean ====
section
/-! DEFINITION. The timer, key-wait and audio instructions (45_timers_keys_audio.md R220 to R227). -/

namespace Sys2Proof.Machine

/-- LD Vx, DT (R220). -/
def execLdVxDt (x : RegIx) (s : State) : Result := .next (s.setReg x s.dt)

/-- LD DT, Vx (R221). -/
def execLdDtVx (x : RegIx) (s : State) : Result := .next { s with dt := s.reg x }

/-- The audio buffer of 16 zero bytes (R222, D18; R44). -/
def silentBuffer : Vector Byte 16 := Vector.replicate 16 0

/-- LD ST, Vx (R222): a zero also clears the audio buffer. -/
def execLdStVx (x : RegIx) (s : State) : Result :=
  .next { s with
    st := s.reg x
    audioBuffer := if s.reg x = 0 then silentBuffer else s.audioBuffer }

/-- LD Vx, K (R223): enter the wait; no key is sampled and Vx is not written in this Step. -/
def execLdVxK (x : RegIx) (s : State) : Result := .next ({ s with waiting := some ⟨x, none⟩ }.emit .waitingForKey)

/-- AUDIO (R226): 16 bytes at I into the audio buffer; the field x is ignored (R96). -/
def execAudio (_ignored : Nat) (s : State) : Result :=
  withRange s.i.toNat 16 s
    (.next ({ s with audioBuffer := Vector.ofFn fun k => s.mem.get (s.i.toNat + k.val) }.emit .audioBufferUpdated))

/-- PITCH Vx (R227). -/
def execPitch (x : RegIx) (s : State) : Result := .next { s with bufferPitch := s.reg x }

end Sys2Proof.Machine
end

