-- ==== Sys2Proof/Machine/Screen.lean ====
section
/-! DEFINITION. The display controller's primitives (44_display.md R190 to R199) and the drawing of a sprite (R208, R209).
A plane is the row-major list of its pixels: the pixel at column x, row y is element `y * width + x` (R31). -/

namespace Sys2Proof.Machine

/-- `width(res)` (R30). -/
def Resolution.width : Resolution → Nat
  | .low => 64
  | .high => 128

/-- `height(res)` (R30). -/
def Resolution.height : Resolution → Nat
  | .low => 32
  | .high => 64

/-- The number of pixels of a plane (R30, R31). -/
def Resolution.pixels (r : Resolution) : Nat := r.width * r.height

/-- The pixel at column x, row y of a plane of width `w` (R31, R190). -/
def pixelAt (w : Nat) (plane : List Bool) (x y : Nat) : Bool := plane.getD (y * w + x) false

/-- The plane of width `w` and height `h` whose pixel at (x, y) is `f x y`. -/
def planeOf (w h : Nat) (f : Nat → Nat → Bool) : List Bool := (List.range (w * h)).map fun k => f (k % w) (k / w)

/-- `SetPlanePixel(p, x, y)` on one plane: toggle the pixel; the answer's second part says whether it went 1 → 0 (R191). -/
def setPlanePixel (w : Nat) (plane : List Bool) (x y : Nat) : List Bool × Bool :=
  (plane.set (y * w + x) (!pixelAt w plane x y), pixelAt w plane x y)

/-- A plane of zeros at the resolution's size (R192, R193). -/
def blankPlane (r : Resolution) : List Bool := List.replicate r.pixels false

/-- `ScrollDown(n)` on one plane: `P'(x, y) = P(x, y − n)` if y ≥ n, else 0 (R195). -/
def scrolledDown (r : Resolution) (n : Nat) (p : List Bool) : List Bool :=
  planeOf r.width r.height fun x y => if n ≤ y then pixelAt r.width p x (y - n) else false

/-- `ScrollUp(n)` on one plane: `P'(x, y) = P(x, y + n)` if y + n < H, else 0 (R196). -/
def scrolledUp (r : Resolution) (n : Nat) (p : List Bool) : List Bool :=
  planeOf r.width r.height fun x y => if y + n < r.height then pixelAt r.width p x (y + n) else false

/-- `ScrollRight(n)` on one plane: `P'(x, y) = P(x − n, y)` if x ≥ n, else 0 (R197). -/
def scrolledRight (r : Resolution) (n : Nat) (p : List Bool) : List Bool :=
  planeOf r.width r.height fun x y => if n ≤ x then pixelAt r.width p (x - n) y else false

/-- `ScrollLeft(n)` on one plane: `P'(x, y) = P(x + n, y)` if x + n < W, else 0 (R198). -/
def scrolledLeft (r : Resolution) (n : Nat) (p : List Bool) : List Bool :=
  planeOf r.width r.height fun x y => if x + n < r.width then pixelAt r.width p (x + n) y else false

/-- Whether bit p of `active_plane` selects plane p (R32, R190). -/
def State.selected (s : State) (p : Nat) : Bool := s.activePlane.getLsbD p

/-- "for each selected plane": change the selected planes, leave the others (R190, R199). -/
def State.mapSelected (s : State) (f : List Bool → List Bool) : State :=
  { s with
    plane0 := if s.selected 0 then f s.plane0 else s.plane0
    plane1 := if s.selected 1 then f s.plane1 else s.plane1 }

/-- `SetResolution(r)`: both planes are cleared at the new size, whatever `active_plane` is (R193). -/
def State.setResolution (s : State) (r : Resolution) : State :=
  { s with res := r, plane0 := blankPlane r, plane1 := blankPlane r }

/-- `SetActivePlane(m)`: `active_plane <- m & 0x3` (R194). -/
def State.setActivePlane (s : State) (m : Nat) : State := { s with activePlane := BitVec.ofNat 2 m }

/-! ### Sprites (R208, R209) -/

/-- The rows of a sprite: 16 for n = 0, else n (R209). -/
def spriteRows (n : Nat) : Nat := if n = 0 then 16 else n

/-- The bytes of a sprite's row: 2 for n = 0, else 1 (R209). -/
def spriteBytesPerRow (n : Nat) : Nat := if n = 0 then 2 else 1

/-- The bytes a sprite takes per plane: 32 for n = 0, else n (R209). -/
def spriteStep (n : Nat) : Nat := if n = 0 then 32 else n

/-- The number of selected planes (R209). -/
def State.selectedCount (s : State) : Nat := (s.selected 0).toNat + (s.selected 1).toNat

/-- The sprite's bit at row r, column c: the most significant bit of a byte is its leftmost pixel (R208, D14). -/
def spriteBit (m : Memory) (ptr n r c : Nat) : Bool :=
  (m.get (ptr + r * spriteBytesPerRow n + c / 8)).getLsbD (7 - c % 8)

/-- The (row, column) pairs of a sprite, in the order of R209's loops. -/
def spriteCells (n : Nat) : List (Nat × Nat) :=
  (List.range (spriteRows n)).flatMap fun r => (List.range (8 * spriteBytesPerRow n)).map fun c => (r, c)

/-- Where on the screen the sprite's pixel lands: dropped when clipped, else wrapped around the edges (R209). -/
def spriteTarget (clip : Bool) (res : Resolution) (x0 y0 r c : Nat) : Option (Nat × Nat) :=
  if clip && (decide (res.width ≤ x0 + c) || decide (res.height ≤ y0 + r)) then none
  else some ((x0 + c) % res.width, (y0 + r) % res.height)

/-- One turn of R209's inner loop on a plane and the collision found so far: only a bit that is 1 and not clipped toggles a pixel. -/
def drawCell (m : Memory) (clip : Bool) (res : Resolution) (ptr n x0 y0 : Nat) (acc : List Bool × Bool) (rc : Nat × Nat) :
    List Bool × Bool :=
  if spriteBit m ptr n rc.1 rc.2 then
    match spriteTarget clip res x0 y0 rc.1 rc.2 with
    | some (px, py) =>
      ((setPlanePixel res.width acc.1 px py).1, acc.2 || (setPlanePixel res.width acc.1 px py).2)
    | none => acc
  else acc

/-- Draw the sprite at `ptr` into one plane: the plane and whether any pixel went 1 → 0 (R209). -/
def drawPlane (m : Memory) (clip : Bool) (res : Resolution) (ptr n x0 y0 : Nat) (plane : List Bool) : List Bool × Bool :=
  (spriteCells n).foldl (drawCell m clip res ptr n x0 y0) (plane, false)

/-- Where plane 1's sprite data starts: behind plane 0's when plane 0 is selected too (R208, R210). -/
def State.spritePtr1 (s : State) (n : Nat) : Nat := s.i.toNat + if s.selected 0 then spriteStep n else 0

/-- The two planes after the draw and whether any pixel of a selected plane was erased (R209). The coordinates are given. -/
def State.drawn (s : State) (x0 y0 n : Nat) : List Bool × List Bool × Bool :=
  let d0 := if s.selected 0 then drawPlane s.mem s.inp.quirks.clipSprites s.res s.i.toNat n x0 y0 s.plane0 else (s.plane0, false)
  let d1 := if s.selected 1 then drawPlane s.mem s.inp.quirks.clipSprites s.res (s.spritePtr1 n) n x0 y0 s.plane1
    else (s.plane1, false)
  (d0.1, d1.1, d0.2 || d1.2)

end Sys2Proof.Machine
end

