-- ==== Sys2Proof/Machine/Display.lean ====
section
/-! DEFINITION. The display instructions (44_display.md R200 to R210). -/

namespace Sys2Proof.Machine

/-- SCD n (R200). -/
def execScd (n : Nat) (s : State) : Result := .next (s.mapSelected (scrolledDown s.res n))

/-- SCU n (R201). -/
def execScu (n : Nat) (s : State) : Result := .next (s.mapSelected (scrolledUp s.res n))

/-- CLS (R202): clear the selected planes. -/
def execCls (s : State) : Result := .next (s.mapSelected fun _ => blankPlane s.res)

/-- SCR (R203): right by 4 pixels in both resolutions. -/
def execScr (s : State) : Result := .next (s.mapSelected (scrolledRight s.res 4))

/-- SCL (R204): left by 4 pixels in both resolutions. -/
def execScl (s : State) : Result := .next (s.mapSelected (scrolledLeft s.res 4))

/-- LOW (R205): both planes are cleared and the notification is emitted even when the resolution was Low. -/
def execLow (s : State) : Result := .next ((s.setResolution .low).emit (.resolutionChanged .low))

/-- HIGH (R206). -/
def execHigh (s : State) : Result := .next ((s.setResolution .high).emit (.resolutionChanged .high))

/-- PLANE x (R207): x is the immediate itself. -/
def execPlane (mask : Nat) (s : State) : Result := .next (s.setActivePlane mask)

/-- DRW Vx, Vy, n (R209): the coordinates are read first, the sprite bytes of every selected plane must exist, VF is always written. -/
def execDrw (x y : RegIx) (n : Nat) (s : State) : Result :=
  let d := s.drawn ((s.reg x).toNat % s.res.width) ((s.reg y).toNat % s.res.height) n
  withRange s.i.toNat (spriteStep n * s.selectedCount) s
    (.next ({ s with plane0 := d.1, plane1 := d.2.1 }.setReg vF (flagByte d.2.2)))

end Sys2Proof.Machine
end

