-- ==== Sys2Proof/Machine/Index.lean ====
section
/-! DEFINITION. The index register, loads and stores through it, and the flag slot (43_index_memory.md R170 to R185).
An instruction's whole address range is checked before anything is written (R179). -/

namespace Sys2Proof.Machine

/-- LD I, nnn (R170). -/
def execLdI (nnn : Addr12) (s : State) : Result := .next { s with i := nnn.setWidth 16 }

/-- LD I, long NNNN (R171): the operand word has been fetched with the instruction, pc moves past it (log 15). -/
def execLdILong (nnnn : Word) (s : State) : Result := .next { s with i := nnnn, pc := s.pc + 2 }

/-- ADD I, Vx (R172): wraps at 16 bits, VF is not written. -/
def execAddI (x : RegIx) (s : State) : Result := .next { s with i := BitVec.ofNat 16 (s.i.toNat + (s.reg x).toNat) }

/-- LD F, Vx (R176). -/
def execLdF (x : RegIx) (s : State) : Result := .next { s with i := smallGlyph (s.reg x) }

/-- LD HF, Vx (R177). -/
def execLdHf (x : RegIx) (s : State) : Result := .next { s with i := bigGlyph (s.reg x) }

/-- BCD Vx (R178). -/
def execBcd (x : RegIx) (s : State) : Result :=
  withRange s.iAddr 3 s (.next { s with mem := s.mem.setBytes s.iAddr (bcdDigits (s.reg x)) })

/-- LD [I], Vx (R180): V0 to Vx at I, I + 1, …; then I moves under `i_incremented`. -/
def execLdMemVx (x : RegIx) (s : State) : Result :=
  withRange s.iAddr (x.val + 1) s (.next ({ s with mem := s.mem.setBytes s.iAddr (s.regBytes 0 x) }.incrementI x))

/-- LD Vx, [I] (R181): V0 to Vx from I, I + 1, …; then I moves under `i_incremented`. -/
def execLdVxMem (x : RegIx) (s : State) : Result :=
  withRange s.iAddr (x.val + 1) s (.next ({ s with v := loadRegs s.v s.mem s.iAddr 0 x }.incrementI x))

/-- SAVE Vx, Vy (R182): register x at I, walking toward register y; I is not changed. -/
def execSave (x y : RegIx) (s : State) : Result :=
  withRange s.iAddr (regDistance x y + 1) s (.next { s with mem := s.mem.setBytes s.iAddr (s.regBytes x y) })

/-- LOAD Vx, Vy (R183): the load half of SAVE; I is not changed. -/
def execLoad (x y : RegIx) (s : State) : Result :=
  withRange s.iAddr (regDistance x y + 1) s (.next { s with v := loadRegs s.v s.mem s.iAddr x y })

/-- LD R, Vx (R184): the flag slot gets V0 to Vx. -/
def execLdRVx (x : RegIx) (s : State) : Result := .next { s with rpl := copyUpTo x s.v s.rpl }

/-- LD Vx, R (R185): V0 to Vx get the flag slot's bytes. -/
def execLdVxR (x : RegIx) (s : State) : Result := .next { s with v := copyUpTo x s.rpl s.v }

end Sys2Proof.Machine
end

