-- ==== Sys2Proof/Machine/System.lean ====
section
/-! DEFINITION. The instructions of the cycle itself and the unknown opcode (40_execution_cycle.md R118 to R120).
In every meaning `s` is the state after the fetch: `pc` is the post-fetch pc (R116). -/

namespace Sys2Proof.Machine

/-- NOP (R118): nothing but the fetch's advance. -/
def execNop (s : State) : Result := .next s

/-- EXIT (R120): set the exit-request flag, rewind pc to this 00FD, notify. -/
def execExit (s : State) : Result := .next ({ s with exitReq := true, pc := s.pc - 2 }.emit .exitRequested)

/-- Any word that matches no row (R119): notify, nothing else; pc has advanced. -/
def execUnknown (op : Word) (s : State) : Result := .next (s.emit (.unknownOpcode op))

end Sys2Proof.Machine
end

