-- ==== Sys2Proof/Machine/Cycle.lean ====
section
/-! DEFINITION. The Step of the CPU (40_execution_cycle.md R113 to R117): the key-wait poll, the fetch, the dispatch. -/

namespace Sys2Proof.Machine

/-- The order in which the key-wait poll scans the keys (R7, R114): not numeric. -/
def keyScanOrder : List (Fin 16) := [0x1, 0x2, 0x3, 0xC, 0x4, 0x5, 0x6, 0xD, 0x7, 0x8, 0x9, 0xE, 0xA, 0x0, 0xB, 0xF]

/-- The first pressed key in scan order, if any (R114, R115). -/
def State.firstPressed (s : State) : Option (Fin 16) := keyScanOrder.find? s.keyDown

/-- One key-wait poll (R114): latch the first pressed key, or, once one is latched, wait for its release and write its index. -/
def State.keyWaitPoll (s : State) (w : KeyWait) : State :=
  match w.key with
  | none =>
    match s.firstPressed with
    | some k => { s with waiting := some ⟨w.register, some k⟩ }
    | none => s
  | some k => if s.keyDown k then s else { s.setReg w.register (BitVec.ofNat 8 k.val) with waiting := none }

/-- Fetch, advance pc, execute (R113, R116, R117). The fetch sees the bytes at pc that exist, at most the four of the longest
instruction (R90); where the opcode word, or F000's operand word, does not exist, the Step aborts (R116, R171; log 15). -/
def State.fetchExecute (s : State) : Result :=
  match decode (s.mem.window s.pc.toNat 4) with
  | .ok i _ => exec i s.advance
  | .reject .noOpcodeWord => abort .memoryOutOfRange s
  | .reject .noOperandWord => abort .memoryOutOfRange s.advance
  | .reject (.unknownOpcode op) => execUnknown op s.advance

/-- The machine takes Steps and Ticks: a ROM is running and no abort has ended the run (R38, R39). -/
def State.live (s : State) : Bool := s.running && s.halt.isNone

/-- `CPU.step` (R113): nothing when not live, one poll while a key wait is pending, else one instruction. -/
def State.cpuStep (s : State) : Result :=
  if s.live then
    match s.waiting with
    | some w => .next (s.keyWaitPoll w)
    | none => s.fetchExecute
  else .next s

/-- `s` with the instruction of the table's bits `w` where the next Step fetches, in a machine that takes that Step:
a ROM is running, no abort, no key wait, the host's next event is a Step (log 4). -/
def State.placeInstr (s : State) (nbits w : Nat) : State :=
  { s with
    mem := s.mem.setBytes s.pc.toNat ((tableBytes nbits w).take (Config.memSize - s.pc.toNat))
    running := true
    halt := none
    waiting := none
    inp := { s.inp with event := .step } }

end Sys2Proof.Machine
end

