-- ==== Sys2Proof/Machine/HostEvents.lean ====
section
/-! DEFINITION. The host's events (R110, R279): Tick, Step, Reset, LoadRom, and the two small host actions; and the frame. -/

namespace Sys2Proof.Machine

/-- A count-down by at most one, never below 0 (R111). -/
def countDown (b : Byte) : Byte := if b = 0 then 0 else b - 1

/-- Tick (R111): both timers count down, also during a key wait; nothing when not live. -/
def State.tick (s : State) : State :=
  if s.live then { s with dt := countDown s.dt, st := countDown s.st } else s

/-- Whether LoadRom accepts a ROM of this length (R272, R273). -/
def romSizeOk (n : Nat) : Bool := decide (1 ≤ n ∧ n ≤ Config.romMax)

/-- LoadRom (R272): reset (its font as log 20 says), copy the ROM to 0x200, run; a ROM of a bad size changes nothing (R273). -/
def State.loadRom (s : State) (bytes : List Byte) : State :=
  if romSizeOk bytes.length then
    { s.resetBlock with
      mem := s.resetBlock.mem.setBytes Config.programStart bytes
      running := true }
  else s

/-- The host's `clear_audio_buffer()` (R44). -/
def State.clearAudioBuffer (s : State) : State := { s with audioBuffer := silentBuffer }

/-- The host writes another font over the addresses from 0 (R74); longer than R8 allows is something it never does (log 13).
DESIGN CHOICE (unsafe; log 20): the write changes the bytes in memory only, so a later Reset or LoadRom reloads the original FONT_IMAGE. -/
def State.loadFont (s : State) (glyphs : List Byte) : Result :=
  if glyphs.length ≤ Config.fontMax then .next { s with mem := s.mem.setBytes 0 glyphs } else .fault .hostBreach

/-- Perform one host event (R110). -/
def State.react (s : State) (e : HostEvent) : Result :=
  match e with
  | .tick => .next s.tick
  | .step => s.cpuStep
  | .reset => .next s.resetBlock
  | .loadRom bytes => .next (s.loadRom bytes)
  | .clearAudioBuffer => .next s.clearAudioBuffer
  | .loadFont glyphs => s.loadFont glyphs

/-- The notifications are those of the latest event only (R45; log 3). -/
def State.clearOut (s : State) : State := { s with out := [] }

/-- The host supplies its next input: any event, keys, quirks and byte, a free value (R40, R279; log 1). -/
def State.nextInput (s : State) : State :=
  { s with inp := Config.hostInputs s.inputCount, inputCount := s.inputCount + 1 }

/-- One step of the model: perform the host's pending event, then take the host's next input (log 1). -/
def State.hostStep (s : State) : Result :=
  match s.clearOut.react s.inp.event with
  | .next t => .next t.nextInput
  | .fault r => .fault r
  | .refused r => .refused r

/-- The Steps of a frame, one per input, and their notifications in Step order (R112). -/
def State.steps : List HostInput → State → Host.Outcome (State × List Message) Fault Refusal
  | [], s => .next (s, [])
  | inp :: rest, s =>
    match ({ s with inp := inp, out := [] } : State).cpuStep with
    | .next t =>
      match State.steps rest t with
      | .next (u, ms) => .next (u, t.out ++ ms)
      | .fault r => .fault r
      | .refused r => .refused r
    | .fault r => .fault r
    | .refused r => .refused r

/-- A frame, the document's `Device.step(cpu_speed)` (R112): one Tick, then one Step per input, `cpu_speed` being their number. -/
def State.frame (s : State) (inputs : List HostInput) : Host.Outcome (State × List Message) Fault Refusal :=
  State.steps inputs s.tick

end Sys2Proof.Machine
end

