-- ==== Sys2Proof/Machine/Step.lean ====
section
/-! DEFINITION. The step function and the placing of an instruction where it fetches. -/

namespace Sys2Proof.Machine

/-- One step: the host's pending event (R110), then the host's next input. -/
def step (s : State) : Host.Outcome State Fault Refusal := s.hostStep

/-- `s` with an instruction, numbered as spec/opcode_table.json numbers its bits, stored where the very next step fetches and runs it. -/
def State.withFetchWord (s : State) (nbits w : Nat) : State := s.placeInstr nbits w

end Sys2Proof.Machine
end

