-- ==== Sys2Proof/Safety.lean ====
section
/-! DEFINITION. What counts as a good state, in the terms the statements use: the invariants of R47 and R24, the canonical form of
memory, and the end of a run (R121). -/

namespace Sys2Proof.Machine

/-- Each plane has exactly `width(res) * height(res)` elements (R31, R47). -/
def State.planesSized (s : State) : Prop :=
  s.plane0.length = s.res.pixels ∧ s.plane1.length = s.res.pixels

/-- Every stack element is at most 4096 (R47). -/
def State.stackBounded (s : State) : Prop := ∀ w ∈ s.stack, w.toNat ≤ 4096

/-- `pc` never exceeds 0x10FE (R24). -/
def State.pcBounded (s : State) : Prop := s.pc.toNat ≤ 0x10FE

/-- What R47 and R24 say of a reachable state in which no abort has ended the run; after an abort they say nothing (R39). -/
def State.reachableOk (s : State) : Prop :=
  s.halt = none → s.planesSized ∧ s.stackBounded ∧ s.pcBounded

/-- The invariant of the model: memory has its canonical form, and R47 and R24 hold unless halted. -/
def State.Inv (s : State) : Prop := s.mem.wf ∧ s.reachableOk

/-- The instruction or step completes: it answers a next state, of which `P` holds. -/
def Completes (o : Result) (P : State → Prop) : Prop := ∃ t, o = .next t ∧ P t

/-- The instruction or step, started in `s`, ends in the fatal abort `r`. Of the state after an abort only `halt` and the flag slot
may be relied on (R39, R244; log 5), so nothing else is said. -/
def Aborts (s : State) (o : Result) (r : AbortReason) : Prop := ∃ t, o = .next t ∧ t.halt = some r ∧ t.rpl = s.rpl

/-- What a step adds around the answer of an instruction: the host's next input is taken (log 1). -/
def thenNextInput : Result → Result
  | .next t => .next t.nextInput
  | .fault r => .fault r
  | .refused r => .refused r

/-- The next step is a Step of the CPU that fetches an instruction: the host's event is a Step, the machine is live and no key
wait is pending (R113). -/
def State.fetching (s : State) : Prop := s.inp.event = .step ∧ s.live = true ∧ s.waiting = none

/-- The bytes `bs` stand in memory at `pc`, all of them inside it. -/
def State.holdsAtPc (s : State) (bs : List Byte) : Prop :=
  s.pc.toNat + bs.length ≤ Config.memSize ∧ ∀ k, (h : k < bs.length) → s.mem.get (s.pc.toNat + k) = bs[k]

/-- `s` and `t` differ at most in what the host supplies and in the list of notifications, neither of which is state of the block
(R20, R40, R45). -/
def sameBlock (s t : State) : Prop := t = { s with inp := t.inp, inputCount := t.inputCount, out := t.out }

/-! ### The spec's tables, as the statements cite them -/

/-- The unknown words, as R95 lists them family by family. -/
def listedUnknown (w : Word) : Prop :=
  (w.toNat < 0x1000 ∧ w.toNat ∉ [0x0000, 0x00E0, 0x00EE, 0x00FB, 0x00FC, 0x00FD, 0x00FE, 0x00FF] ∧
    ¬(0x00C0 ≤ w.toNat ∧ w.toNat ≤ 0x00CF) ∧ ¬(0x00D0 ≤ w.toNat ∧ w.toNat ≤ 0x00DF)) ∨
  (w.toNat / 4096 = 0x5 ∧ w.toNat % 16 ∉ [0x0, 0x2, 0x3]) ∨
  (w.toNat / 4096 = 0x8 ∧ w.toNat % 16 ∈ [0x8, 0x9, 0xA, 0xB, 0xC, 0xD, 0xF]) ∨
  (w.toNat / 4096 = 0x9 ∧ w.toNat % 16 ≠ 0x0) ∨
  (w.toNat / 4096 = 0xE ∧ w.toNat % 256 ∉ [0x9E, 0xA1]) ∨
  (w.toNat / 4096 = 0xF ∧ w.toNat ≠ 0xF000 ∧
    w.toNat % 256 ∉ [0x01, 0x02, 0x07, 0x0A, 0x15, 0x18, 0x1E, 0x29, 0x30, 0x33, 0x3A, 0x55, 0x65, 0x75, 0x85])

/-- The number of bytes of memory at `I` an instruction reads or writes (the table of R65); 0 where it touches none. -/
def dataBytes (i : Instr) (s : State) : Nat :=
  match i with
  | .bcd _ => 3
  | .ldMemVx x => x.val + 1
  | .ldVxMem x => x.val + 1
  | .save x y => regDistance x y + 1
  | .load x y => regDistance x y + 1
  | .audio _ => 16
  | .drw _ _ n => spriteStep n * s.selectedCount
  | _ => 0

/-- The instruction is one of the six skips (R134, R242). -/
def isSkip : Instr → Bool
  | .seImm _ _ => true
  | .sneImm _ _ => true
  | .seReg _ _ => true
  | .sneReg _ _ => true
  | .skp _ => true
  | .sknp _ => true
  | _ => false

/-- The instruction is a skip whose condition holds (R135 to R138, R142, R143); a key skip whose register names no key is not. -/
def skipTaken (i : Instr) (s : State) : Prop :=
  match i with
  | .seImm x nn => s.reg x = nn
  | .sneImm x nn => s.reg x ≠ nn
  | .seReg x y => s.reg x = s.reg y
  | .sneReg x y => s.reg x ≠ s.reg y
  | .skp x => ∃ k : Fin 16, k.val = (s.reg x).toNat ∧ s.keyDown k = true
  | .sknp x => ∃ k : Fin 16, k.val = (s.reg x).toNat ∧ s.keyDown k = false
  | _ => False

/-- The instructions that can write a V register, by their rows of R93: 5xy3, 6xnn, 7xnn, 8xy0 to 8xyE, Cxnn, Dxyn, Fx07, Fx65, Fx85
(R20's row for V, R164). -/
def writesV (i : Instr) : Bool := decide (i.row ∈ [17, 18, 19, 20, 21, 22, 23, 24, 25, 26, 27, 28, 32, 33, 39, 49, 51])

/-- The instructions that can change pc beyond the fetch's + 2 (the list of R24): 00EE, 00FD, 1nnn, 2nnn, Bnnn, F000 and the skips. -/
def setsPc (i : Instr) : Bool := decide (i.row ∈ [5, 8, 11, 12, 31, 36]) || isSkip i

/-- The instructions that can write I: Annn, F000, Fx1E, Fx29, Fx30, Fx55, Fx65 (R20's row for I, R25). -/
def writesI (i : Instr) : Bool := decide (i.row ∈ [30, 36, 43, 44, 45, 48, 49])

/-- The instructions that can write a pixel plane: 00Cn, 00Dn, 00E0, 00FB, 00FC, 00FE, 00FF, Dxyn (R20's row for the planes, R31). -/
def writesPlanes (i : Instr) : Bool := decide (i.row ∈ [2, 3, 4, 6, 7, 9, 10, 33])

/-- The notifications an instruction emits when it does not abort (the table of R246). -/
def emittedBy : Instr → List Message
  | .low => [.resolutionChanged .low]
  | .high => [.resolutionChanged .high]
  | .ldVxK _ => [.waitingForKey]
  | .audio _ => [.audioBufferUpdated]
  | .exit => [.exitRequested]
  | _ => []

/-- The sprite at `ptr`, drawn from (x0, y0), has a lit bit that lands on the screen's pixel (px, py): bit `7 − (c mod 8)` of byte
`c / 8` of row r (R208), wrapped around the edges or, under `clip_sprites`, only where it does not cross one (R209). -/
def spriteLights (s : State) (ptr n x0 y0 px py : Nat) : Prop :=
  ∃ r c, r < (if n = 0 then 16 else n) ∧ c < (if n = 0 then 16 else 8) ∧
    (s.mem.get (ptr + r * (if n = 0 then 2 else 1) + c / 8)).getLsbD (7 - c % 8) = true ∧
    (s.inp.quirks.clipSprites = true → x0 + c < s.res.width ∧ y0 + r < s.res.height) ∧
    (x0 + c) % s.res.width = px ∧ (y0 + r) % s.res.height = py

/-- The program has finished: no abort, and it has executed 00FD (R121). -/
def State.finished (s : State) : Prop := s.halt = none ∧ s.exitReq = true

end Sys2Proof.Machine
end

