-- ==== Sys2Proof/Certificates/Slice0/Obligations.lean ====
section
/-! DEFINITION. The statements for the provers. Every statement is about all states unless it names a premise; `sameBlock` leaves out
the host's inputs and the list of notifications, which are no state of the block (R20, R40, R45). -/

open Sys2Proof Sys2Proof.Machine

/-! ### Encoding and decoding (30_encoding.md) -/

/-- For every instruction an opcode word can hold, the decoder reads back what the encoder wrote, whatever bytes follow (R91, R92). -/
def Obligations.DecodeOfEncodeIsIdentity : Prop :=
  ∀ (i : Instr) (rest : List Byte), i.wellFormed = true → decode (encode i ++ rest) = .ok i rest

/-- What the decoder reads is well formed and its encoding is the bytes that were read (R91, R92). So no two byte strings give one
value of `Instr`; for Fx02, whose sixteen values of x are the same instruction, this rests on the model's choice to keep the ignored
field in the constructor (log 16). -/
def Obligations.EncodeOfDecodeIsIdentity : Prop :=
  ∀ (bs : List Byte) (i : Instr) (rest : List Byte),
    decode bs = .ok i rest → i.wellFormed = true ∧ encode i ++ rest = bs

/-- A word is a row's instruction exactly when `op & mask = match`, and the rows are pairwise disjoint (R93; the disjointness is marked
there as derived by the spec). -/
def Obligations.DecodeFollowsTheOpcodeTable : Prop :=
  (∀ (b0 b1 b2 b3 : Byte) (rest : List Byte), ∀ r ∈ opcodeTable,
    (∃ i tl, decode (b0 :: b1 :: b2 :: b3 :: rest) = .ok i tl ∧ i.row = r.row) ↔
      wordOfBytes b0 b1 &&& r.mask = r.pattern) ∧
  opcodeTable.Pairwise fun a b => ∀ op : Word, ¬(op &&& a.mask = a.pattern ∧ op &&& b.mask = b.pattern)

/-- The decoder rejects exactly the words R95 lists, each under its own word (R95; that Fx00 with x ≠ 0 is among them is decision D37). -/
def Obligations.UnknownWordsAreExactlyTheListedOnes : Prop :=
  ∀ (b0 b1 : Byte) (rest : List Byte) (w : Word),
    decode (b0 :: b1 :: rest) = .reject (.unknownOpcode w) ↔ w = wordOfBytes b0 b1 ∧ listedUnknown w

/-- Words of the spec's own examples decode to the instructions they stand for there (R132, R133, R136, R142, R153, R162, R171, R181,
R182, R200, R207, R209). -/
def Obligations.WordsOfTheSpecsExamplesDecode : Prop :=
  decode [0x22, 0x10] = .ok (.call 0x210) [] ∧
  decode [0xB2, 0x10] = .ok (.jpV0 0x210) [] ∧
  decode [0x43, 0x08] = .ok (.sneImm 3 0x08) [] ∧
  decode [0xE4, 0x9E] = .ok (.skp 4) [] ∧
  decode [0x82, 0x10] = .ok (.ldReg 2 1) [] ∧
  decode [0xC3, 0x0F] = .ok (.rnd 3 0x0F) [] ∧
  decode [0xF0, 0x00, 0x12, 0x34] = .ok (.ldILong 0x1234) [] ∧
  decode [0xF2, 0x65] = .ok (.ldVxMem 2) [] ∧
  decode [0x53, 0x12] = .ok (.save 3 1) [] ∧
  decode [0x00, 0xC2] = .ok (.scd 2) [] ∧
  decode [0xF6, 0x01] = .ok (.plane 6) [] ∧
  decode [0xD0, 0x12] = .ok (.drw 0 1 2) []

/-! ### The step (40_execution_cycle.md) -/

/-- When the bytes at pc decode to an instruction, the step is that instruction on the state with pc past the opcode word and the
notification list empty, followed by the host's next input (R113, R116; the input is the model's own, log 1). -/
def Obligations.StepRunsTheDecodedInstruction : Prop :=
  ∀ (s : State) (i : Instr) (rest : List Byte), s.fetching → decode (s.mem.window s.pc.toNat 4) = .ok i rest →
    step s = thenNextInput (exec i { s with out := [], pc := s.pc + 2 })

/-- The same from memory: when the encoding of a well-formed instruction stands at pc, the step runs it (R62, R113, R116). -/
def Obligations.StepRunsTheInstructionInMemory : Prop :=
  ∀ (s : State) (i : Instr), s.fetching → i.wellFormed = true → s.holdsAtPc (encode i) →
    step s = thenNextInput (exec i { s with out := [], pc := s.pc + 2 })

/-- A fetch from a pc above 4094 aborts (R116; that it aborts is decision D2). -/
def Obligations.FetchBeyondMemoryAborts : Prop :=
  ∀ s : State, s.fetching → 4094 < s.pc.toNat → Aborts s (step s) .memoryOutOfRange

/-- An unknown word notifies, passes its two bytes and changes nothing else (R119; its payload and the lack of other effects are
decisions D25 and D38). -/
def Obligations.UnknownOpcodeNotifiesAndContinues : Prop :=
  ∀ (s : State) (op : Word), s.fetching → s.holdsAtPc [highByte op, lowByte op] → listedUnknown op →
    Completes (step s) fun t => t.out = [.unknownOpcode op] ∧ sameBlock { s with pc := s.pc + 2 } t

/-- A machine that is not running or is halted: Tick and Step change nothing and return no notification (R111, R113; for the halted
machine decision D23). -/
def Obligations.TickAndStepAreInertWhenNotLive : Prop :=
  ∀ s : State, s.live = false → s.inp.event = .step ∨ s.inp.event = .tick →
    Completes (step s) fun t => t.out = [] ∧ sameBlock s t

/-- One key-wait poll: nothing pressed, the first pressed key in scan order latched, the latched key still down, the latched key
released (R114; that one Step does not both latch and deliver is decision D12). -/
def Obligations.KeyWaitPollLatchesThenDelivers : Prop :=
  ∀ (s : State) (r : RegIx), s.inp.event = .step → s.live = true →
    (s.waiting = some ⟨r, none⟩ → (∀ k, s.keyDown k = false) →
      Completes (step s) fun t => t.out = [] ∧ sameBlock s t) ∧
    (∀ k : Fin 16, s.waiting = some ⟨r, none⟩ → s.keyDown k = true →
      (∀ j, s.keyDown j = true →
        [0x1, 0x2, 0x3, 0xC, 0x4, 0x5, 0x6, 0xD, 0x7, 0x8, 0x9, 0xE, 0xA, 0x0, 0xB, 0xF].idxOf k ≤
          [0x1, 0x2, 0x3, 0xC, 0x4, 0x5, 0x6, 0xD, 0x7, 0x8, 0x9, 0xE, 0xA, 0x0, 0xB, 0xF].idxOf j) →
      Completes (step s) fun t => t.out = [] ∧ sameBlock { s with waiting := some ⟨r, some k⟩ } t) ∧
    (∀ k : Fin 16, s.waiting = some ⟨r, some k⟩ → s.keyDown k = true →
      Completes (step s) fun t => t.out = [] ∧ sameBlock s t) ∧
    (∀ k : Fin 16, s.waiting = some ⟨r, some k⟩ → s.keyDown k = false →
      Completes (step s) fun t => t.out = [] ∧ sameBlock { s with v := t.v, waiting := none } t ∧
        ∀ x, t.reg x = if x = r then BitVec.ofNat 8 k.val else s.reg x)

/-- Tick: nothing when not live; else at most 1 from each timer, never below 0; in both cases no notification and no other state, a
pending key wait included (R111; that a halted machine is inert is decision D23, log 10; that the timers count down during a key wait
is an inference the spec marks as derived). -/
def Obligations.TickCountsTheTimersDown : Prop :=
  ∀ s : State, s.inp.event = .tick →
    Completes (step s) fun t =>
      t.dt.toNat = (if s.running = true ∧ s.halt = none then s.dt.toNat - 1 else s.dt.toNat) ∧
      t.st.toNat = (if s.running = true ∧ s.halt = none then s.st.toNat - 1 else s.st.toNat) ∧
      t.out = [] ∧ sameBlock { s with dt := t.dt, st := t.st } t

/-- A frame always completes, begins with one Tick, runs its Steps in order with their notifications in Step order, and returns at
most one notification for each of its `cpu_speed` Steps; one Step of it is the CPU's Step on the state with that Step's inputs, its
notifications what that Step leaves in `out` (R112; at most one a Step is derived in R113; the inputs and `out` are log 1 and log 3). -/
def Obligations.FrameIsATickThenTheStepsInOrder : Prop :=
  (∀ s : State, s.frame [] = .next (s.tick, [])) ∧
  (∀ (s : State) (inp : HostInput), ∃ t, ({ s with inp := inp, out := [] } : State).cpuStep = .next t ∧
    State.steps [inp] s = .next (t, t.out)) ∧
  (∀ (s : State) (a b : List HostInput), ∃ t ms u ns, s.frame a = .next (t, ms) ∧ State.steps b t = .next (u, ns) ∧
    s.frame (a ++ b) = .next (u, ms ++ ns) ∧ ms.length ≤ a.length)

/-- Whatever the state, a step completes, unless the host hands over a font longer than R8 allows (R113: a Step always returns). -/
def Obligations.EveryStepCompletes : Prop :=
  ∀ s : State, (∀ g, s.inp.event = .loadFont g → g.length ≤ 512) → ∃ t, step s = .next t

/-! ### Reset and LoadRom (70_reset_and_hazards.md) -/

/-- The state at power-on. The values are R46's; pc, the stack and memory are what the document states, the others are decisions
D5, D6, D7, D23 and D28 of the spec. -/
def Obligations.ResetLeavesTheValuesOfTheSpec : Prop :=
  State.reset.pc = 0x200 ∧ State.reset.stack = [] ∧
  (∀ a, State.reset.mem.get a = if a < 512 then Config.fontByte a else 0) ∧
  (∀ x, State.reset.reg x = 0) ∧ State.reset.i = 0 ∧ State.reset.dt = 0 ∧ State.reset.st = 0 ∧
  State.reset.res = .low ∧ State.reset.plane0 = List.replicate 2048 false ∧ State.reset.plane1 = List.replicate 2048 false ∧
  State.reset.activePlane = 1 ∧ State.reset.waiting = none ∧ (∀ k : Fin 16, State.reset.audioBuffer.get k = 0) ∧
  State.reset.exitReq = false ∧ State.reset.running = false ∧ State.reset.halt = none

/-- The host's Reset, in any state, halted or waiting too, gives the reset values and keeps the flag slot (R270; the values' grounds
as in R46; that the font is the original one also after a re-selection is the model's choice, log 20). -/
def Obligations.ResetEventKeepsOnlyTheFlagSlot : Prop :=
  ∀ s : State, s.inp.event = .reset →
    Completes (step s) fun t => t.out = [] ∧ sameBlock { State.reset with rpl := s.rpl } t

/-- LoadRom of 1 to 3584 bytes: a full reset, the ROM at 0x200, running (R272; the values' grounds as in R46, the font as log 20
says). -/
def Obligations.LoadRomResetsCopiesAndRuns : Prop :=
  ∀ (s : State) (bytes : List Byte), s.inp.event = .loadRom bytes → 1 ≤ bytes.length → bytes.length ≤ 3584 →
    Completes (step s) fun t => t.out = [] ∧
      sameBlock { State.reset with rpl := s.rpl, mem := t.mem, running := true } t ∧
      (∀ k, (h : k < bytes.length) → t.mem.get (0x200 + k) = bytes[k]) ∧
      (∀ a, a < 0x200 ∨ 0x200 + bytes.length ≤ a → t.mem.get a = State.reset.mem.get a)

/-- LoadRom of no bytes or of more than 3584 changes nothing (R273). -/
def Obligations.LoadRomRejectedChangesNothing : Prop :=
  ∀ (s : State) (bytes : List Byte), s.inp.event = .loadRom bytes → bytes.length = 0 ∨ 3584 < bytes.length →
    Completes (step s) fun t => t.out = [] ∧ sameBlock s t

/-- The only ways out of the halted state are Reset and a valid LoadRom; every other event leaves the abort's reason and the flag
slot (R244, decision D23). -/
def Obligations.OnlyResetOrAValidLoadLeavesTheHalt : Prop :=
  ∀ s t : State, s.halt ≠ none → step s = .next t → s.inp.event ≠ .reset →
    (∀ bytes, s.inp.event = .loadRom bytes → ¬(1 ≤ bytes.length ∧ bytes.length ≤ 3584)) →
    t.halt = s.halt ∧ t.rpl = s.rpl

/-! ### Whole-machine rules -/

/-- From every state in which memory is canonical and R47 and R24 hold unless halted, a step gives such a state: planes of the
resolution's size, stack elements at most 4096, pc at most 0x10FE. -/
def Obligations.StepKeepsTheInvariant : Prop :=
  ∀ s t : State, s.Inv → step s = .next t → t.Inv

/-- The invariant holds at power-on. -/
def Obligations.ResetMeetsTheInvariant : Prop := State.reset.Inv

/-- Two canonical memories that read the same inside the address space are the same data: the canonical form hides nothing (log 12). -/
def Obligations.CanonicalMemoriesThatReadAlikeAreEqual : Prop :=
  ∀ m n : Memory, m.wf → n.wf → (∀ a, a < 4096 → m.get a = n.get a) → m = n

/-- No condition aborts but those of the table of R242, a skip only when it is taken (the causes MemoryOutOfRange
and KeyIndexOutOfRange are decisions D2 and D11). -/
def Obligations.AbortsHaveNoOtherCauses : Prop :=
  ∀ (i : Instr) (s t : State) (r : AbortReason), s.halt = none → exec i s = .next t → t.halt = some r →
    (r = .stackUnderflow ∧ i = .ret ∧ s.stack = []) ∨
    (r = .keyIndexOutOfRange ∧ ∃ x, (i = .skp x ∨ i = .sknp x) ∧ 15 < (s.reg x).toNat) ∨
    (r = .memoryOutOfRange ∧ skipTaken i s ∧ 4094 < s.pc.toNat) ∨
    (r = .memoryOutOfRange ∧ dataBytes i s ≠ 0 ∧ 4096 < s.i.toNat + dataBytes i s)

/-- Which instructions can change which element of the state: the column "written by" of R20, for every element (pc beyond the fetch's
advance by the list of R24). Of a state after an abort nothing is said but the reason and the flag slot (R39). The host's inputs are
the model's own fields (log 1). -/
def Obligations.StateIsWrittenOnlyByTheListedInstructions : Prop :=
  ∀ (i : Instr) (s t : State), exec i s = .next t →
    (t.rpl ≠ s.rpl → ∃ x, i = .ldRVx x) ∧
    (t.halt ≠ s.halt → i = .ret ∨ isSkip i = true ∨ dataBytes i s ≠ 0) ∧
    t.inp = s.inp ∧ t.inputCount = s.inputCount ∧
    (t.halt = none →
      (t.v ≠ s.v → writesV i = true) ∧
      (t.pc ≠ s.pc → setsPc i = true) ∧
      (t.i ≠ s.i → writesI i = true) ∧
      (t.dt ≠ s.dt → ∃ x, i = .ldDtVx x) ∧
      (t.st ≠ s.st → ∃ x, i = .ldStVx x) ∧
      (t.stack ≠ s.stack → i = .ret ∨ ∃ a, i = .call a) ∧
      (t.mem ≠ s.mem → (∃ x, i = .bcd x) ∨ (∃ x, i = .ldMemVx x) ∨ ∃ x y, i = .save x y) ∧
      (t.res ≠ s.res → i = .low ∨ i = .high) ∧
      (t.plane0 ≠ s.plane0 ∨ t.plane1 ≠ s.plane1 → writesPlanes i = true) ∧
      (t.activePlane ≠ s.activePlane → ∃ m, i = .plane m) ∧
      (t.waiting ≠ s.waiting → ∃ x, i = .ldVxK x) ∧
      (t.audioBuffer ≠ s.audioBuffer → (∃ u, i = .audio u) ∨ ∃ x, i = .ldStVx x) ∧
      (t.bufferPitch ≠ s.bufferPitch → ∃ x, i = .pitch x) ∧
      (t.exitReq ≠ s.exitReq → i = .exit) ∧
      t.running = s.running)

/-- The flag slot is persistent: among all events of the machine only a Step that executes Fx75 changes it (R36, decision D19). -/
def Obligations.FlagSlotChangesOnlyByFx75 : Prop :=
  ∀ s t : State, step s = .next t → t.rpl ≠ s.rpl →
    s.fetching ∧ ∃ x rest, decode (s.mem.window s.pc.toNat 4) = .ok (.ldRVx x) rest

/-- What each instruction emits, and that an abort emits nothing (R246, R241). -/
def Obligations.NotificationsAreThoseOfTheTable : Prop :=
  ∀ (i : Instr) (s t : State), s.halt = none → exec i s = .next t →
    t.out = s.out ++ if t.halt = none then emittedBy i else []

/-- No instruction reads the sound timer, the audio buffer, the pitch or the exit-request flag: changing them changes nothing else
that an instruction does (R27, R34, R35, R37). Where the instruction aborts, the equality of the elements that R39 leaves unobservable
rests on the model's choice to leave them as they were (log 5). -/
def Obligations.PublishedOnlyStateIsNeverRead : Prop :=
  ∀ (i : Instr) (s t : State) (st' bp' : Byte) (ab' : Vector Byte 16) (e' : Bool), exec i s = .next t →
    ∃ st2 bp2 ab2 e2, exec i { s with st := st', bufferPitch := bp', audioBuffer := ab', exitReq := e' } =
      .next { t with st := st2, bufferPitch := bp2, audioBuffer := ab2, exitReq := e2 }

/-! ### The cycle's own instructions -/

/-- NOP: only the fetch's advance of pc by 2 happens; executed after the fetch it changes nothing (R118). -/
def Obligations.NopOnlyAdvancesPc : Prop :=
  (∀ s : State, exec .nop s = .next s) ∧
  (∀ s : State, s.fetching → s.holdsAtPc [0x00, 0x00] →
    Completes (step s) fun t => t.out = [] ∧ sameBlock { s with pc := s.pc + 2 } t)

/-- EXIT sets the exit-request flag, takes pc back to this 00FD, emits ExitRequested, and nothing else (R120; that the flag is sticky
and the notification repeated is decision D29). -/
def Obligations.ExitRequestsAndRewinds : Prop :=
  ∀ s : State, exec .exit s = .next { s with exitReq := true, pc := s.pc - 2, out := s.out ++ [.exitRequested] }

/-! ### Control transfer (41_control_flow.md) -/

/-- JP nnn and CALL nnn: pc is the zero-extended address; the call pushes the post-fetch pc, on a stack of any depth (R131, R132; that
the stack has no bound is decision D10, log 11). -/
def Obligations.JumpAndCallGoToTheAddress : Prop :=
  ∀ (nnn : Addr12) (s : State),
    (Completes (exec (.jp nnn) s) fun t => t.pc.toNat = nnn.toNat ∧ t = { s with pc := t.pc }) ∧
    (Completes (exec (.call nnn) s) fun t => t.pc.toNat = nnn.toNat ∧ t = { s with pc := t.pc, stack := s.stack ++ [s.pc] })

/-- RET: pc is the last pushed value, which leaves the stack; on the empty stack the fatal StackUnderflow (R130, R71, R72). -/
def Obligations.ReturnPopsOrAborts : Prop :=
  ∀ s : State,
    (∀ rest w, s.stack = rest ++ [w] → exec .ret s = .next { s with pc := w, stack := rest }) ∧
    (s.stack = [] → Aborts s (exec .ret s) .stackUnderflow)

/-- JP V0, nnn: the exact sum, not reduced to 12 bits, of nnn and V0, or of nnn and V[nnn[11:8]] under `jump_bits` (R133). -/
def Obligations.JumpPlusRegister : Prop :=
  ∀ (nnn : Addr12) (s : State),
    Completes (exec (.jpV0 nnn) s) fun t => t = { s with pc := t.pc } ∧
      (s.inp.quirks.jumpBits = false → t.pc.toNat = nnn.toNat + (s.reg 0).toNat) ∧
      (s.inp.quirks.jumpBits = true → ∀ r : RegIx, r.val = nnn.toNat / 256 → t.pc.toNat = nnn.toNat + (s.reg r).toNat)

/-- The four compare-and-skip instructions. Condition false: nothing happens, no word is read. Condition true: pc passes four bytes if
the word there is 0xF000, else two; if that word is not in memory, MemoryOutOfRange (R134 to R138; that an untaken skip reads
nothing is decision D30, the abort decision D2). -/
def Obligations.CompareSkips : Prop :=
  ∀ (x y : RegIx) (nn : Byte) (s : State) (i : Instr) (c : Prop),
    (i = .seImm x nn ∧ (c ↔ s.reg x = nn)) ∨ (i = .sneImm x nn ∧ (c ↔ s.reg x ≠ nn)) ∨
      (i = .seReg x y ∧ (c ↔ s.reg x = s.reg y)) ∨ (i = .sneReg x y ∧ (c ↔ s.reg x ≠ s.reg y)) →
    (¬c → exec i s = .next s) ∧
    (c → s.pc.toNat ≤ 4094 → s.mem.get s.pc.toNat = 0xF0 ∧ s.mem.get (s.pc.toNat + 1) = 0x00 →
      exec i s = .next { s with pc := s.pc + 4 }) ∧
    (c → s.pc.toNat ≤ 4094 → ¬(s.mem.get s.pc.toNat = 0xF0 ∧ s.mem.get (s.pc.toNat + 1) = 0x00) →
      exec i s = .next { s with pc := s.pc + 2 }) ∧
    (c → 4094 < s.pc.toNat → Aborts s (exec i s) .memoryOutOfRange)

/-- SKP and SKNP: the key Vx names decides, the skip is that of the other skips, and a value above 15 aborts before anything else
(R142, R143, R248; the abort on the index is decision D11). -/
def Obligations.KeySkips : Prop :=
  ∀ (x : RegIx) (s : State) (i : Instr) (level : Bool),
    (i = .skp x ∧ level = true) ∨ (i = .sknp x ∧ level = false) →
    (15 < (s.reg x).toNat → Aborts s (exec i s) .keyIndexOutOfRange) ∧
    (∀ k : Fin 16, k.val = (s.reg x).toNat →
      (s.keyDown k ≠ level → exec i s = .next s) ∧
      (s.keyDown k = level → s.pc.toNat ≤ 4094 → s.mem.get s.pc.toNat = 0xF0 ∧ s.mem.get (s.pc.toNat + 1) = 0x00 →
        exec i s = .next { s with pc := s.pc + 4 }) ∧
      (s.keyDown k = level → s.pc.toNat ≤ 4094 → ¬(s.mem.get s.pc.toNat = 0xF0 ∧ s.mem.get (s.pc.toNat + 1) = 0x00) →
        exec i s = .next { s with pc := s.pc + 2 }) ∧
      (s.keyDown k = level → 4094 < s.pc.toNat → Aborts s (exec i s) .memoryOutOfRange))

/-! ### Register file and ALU (42_alu.md) -/

/-- LD Vx, nn; LD Vx, Vy; RND Vx, nn: Vx gets the value, every other register and all other state stay (R150, R153, R162). -/
def Obligations.RegisterLoadsWriteOnlyTheirRegister : Prop :=
  ∀ (x y : RegIx) (nn : Byte) (s : State),
    (Completes (exec (.ldImm x nn) s) fun t => t = { s with v := t.v } ∧ ∀ r, t.reg r = if r = x then nn else s.reg r) ∧
    (Completes (exec (.ldReg x y) s) fun t => t = { s with v := t.v } ∧ ∀ r, t.reg r = if r = x then s.reg y else s.reg r) ∧
    (Completes (exec (.rnd x nn) s) fun t => t = { s with v := t.v } ∧
      ∀ r, t.reg r = if r = x then s.inp.randomByte &&& nn else s.reg r)

/-- ADD Vx, nn wraps modulo 256 and writes no flag: VF changes only as the destination (R151). -/
def Obligations.AddImmediateWrapsWithoutAFlag : Prop :=
  ∀ (x : RegIx) (nn : Byte) (s : State),
    Completes (exec (.addImm x nn) s) fun t => t = { s with v := t.v } ∧
      (t.reg x).toNat = ((s.reg x).toNat + nn.toNat) % 256 ∧ ∀ r, r ≠ x → t.reg r = s.reg r

/-- OR, AND, XOR: Vx gets the result; under `vf_zero` VF is 0 afterward, x = F included (decision D8); else VF changes only as the
destination (R154, R155, R156). -/
def Obligations.LogicWritesTheResultThenZeroesVfUnderTheQuirk : Prop :=
  ∀ (x y : RegIx) (s : State) (i : Instr) (result : Byte),
    (i = .orReg x y ∧ result = s.reg x ||| s.reg y) ∨ (i = .andReg x y ∧ result = s.reg x &&& s.reg y) ∨
      (i = .xorReg x y ∧ result = s.reg x ^^^ s.reg y) →
    Completes (exec i s) fun t => t = { s with v := t.v } ∧
      ∀ r, t.reg r = if r = 15 ∧ s.inp.quirks.vfZero = true then 0 else if r = x then result else s.reg r

/-- ADD Vx, Vy: the sum modulo 256, then VF is 1 exactly when the exact sum is above 255; with x = F the flag is what stays (R157; the
write order at x = F is decision D8). -/
def Obligations.AddWritesTheSumThenTheCarry : Prop :=
  ∀ (x y : RegIx) (s : State),
    Completes (exec (.addReg x y) s) fun t => t = { s with v := t.v } ∧
      (x ≠ 15 → (t.reg x).toNat = ((s.reg x).toNat + (s.reg y).toNat) % 256) ∧
      t.reg 15 = (if 255 < (s.reg x).toNat + (s.reg y).toNat then 1 else 0) ∧
      ∀ r, r ≠ x → r ≠ 15 → t.reg r = s.reg r

/-- SUB and SUBN: the difference modulo 256, then VF is 1 exactly when no borrow is needed, equality included; with x = F the flag is
what stays (R158, R160; equality is decision D9, the write order decision D8). -/
def Obligations.SubtractWritesTheDifferenceThenNotBorrow : Prop :=
  ∀ (x y : RegIx) (s : State) (i : Instr) (a b : Byte),
    (i = .subReg x y ∧ a = s.reg x ∧ b = s.reg y) ∨ (i = .subn x y ∧ a = s.reg y ∧ b = s.reg x) →
    Completes (exec i s) fun t => t = { s with v := t.v } ∧
      (x ≠ 15 → (t.reg x).toNat = (256 + a.toNat - b.toNat) % 256) ∧
      t.reg 15 = (if b.toNat ≤ a.toNat then 1 else 0) ∧
      ∀ r, r ≠ x → r ≠ 15 → t.reg r = s.reg r

/-- SHR and SHL: the source is Vx under `vx_shifted_directly`, else Vy; Vx gets it shifted by one, then VF the bit shifted out; with
x = F the flag is what stays (R159, R161; the write order is decision D8). -/
def Obligations.ShiftsMoveOneBitIntoVf : Prop :=
  ∀ (x y : RegIx) (s : State) (src : Byte), src = (if s.inp.quirks.vxShiftedDirectly = true then s.reg x else s.reg y) →
    (Completes (exec (.shr x y) s) fun t => t = { s with v := t.v } ∧
      (x ≠ 15 → (t.reg x).toNat = src.toNat / 2) ∧ (t.reg 15).toNat = src.toNat % 2 ∧
      ∀ r, r ≠ x → r ≠ 15 → t.reg r = s.reg r) ∧
    (Completes (exec (.shl x y) s) fun t => t = { s with v := t.v } ∧
      (x ≠ 15 → (t.reg x).toNat = src.toNat * 2 % 256) ∧ (t.reg 15).toNat = src.toNat / 128 ∧
      ∀ r, r ≠ x → r ≠ 15 → t.reg r = s.reg r)

/-! ### Index register, loads and stores, flag slot (43_index_memory.md) -/

/-- LD I, nnn: I is the zero-extended address, nothing else changes (R170). -/
def Obligations.LoadIndexImmediate : Prop :=
  ∀ (nnn : Addr12) (s : State),
    Completes (exec (.ldI nnn) s) fun t => t.i.toNat = nnn.toNat ∧ t = { s with i := t.i }

/-- The 4-byte load: executed it sets I to the operand word and passes it; as a step from memory it takes the big-endian word behind
0xF000, advances pc by 4 in all, and aborts when that word is not in memory (R171; the byte order is decision D1, the abort decision D2;
that the word is an operand of the decoded instruction and its absence aborts in the fetch is the model's, log 15). -/
def Obligations.ExtendedLoadTakesTheNextWord : Prop :=
  (∀ (w : Word) (s : State), exec (.ldILong w) s = .next { s with i := w, pc := s.pc + 2 }) ∧
  (∀ s : State, s.fetching → s.holdsAtPc [0xF0, 0x00] → s.pc.toNat ≤ 4092 →
    Completes (step s) fun t => sameBlock { s with i := t.i, pc := s.pc + 4 } t ∧
      t.i.toNat = (s.mem.get (s.pc.toNat + 2)).toNat * 256 + (s.mem.get (s.pc.toNat + 3)).toNat) ∧
  (∀ s : State, s.fetching → s.holdsAtPc [0xF0, 0x00] → 4092 < s.pc.toNat → Aborts s (step s) .memoryOutOfRange)

/-- ADD I, Vx wraps at 16 bits and writes no flag; LD F, Vx multiplies the unmasked register by 5; LD HF, Vx takes the open base and
stride of the big font, and whatever I gets where the sum does not fit 16 bits, for which the spec states no result, nothing else
changes (R172, R176, R177; decisions D27, D33, D20; log 7). -/
def Obligations.IndexArithmetic : Prop :=
  ∀ (x : RegIx) (s : State),
    (Completes (exec (.addI x) s) fun t => t.i.toNat = (s.i.toNat + (s.reg x).toNat) % 65536 ∧ t = { s with i := t.i }) ∧
    (Completes (exec (.ldF x) s) fun t => t.i.toNat = (s.reg x).toNat * 5 ∧ t = { s with i := t.i }) ∧
    (Completes (exec (.ldHf x) s) fun t => t = { s with i := t.i } ∧
      (Config.bigFontBase.toNat + (s.reg x).toNat % 16 * Config.bigFontStride < 65536 →
        t.i.toNat = Config.bigFontBase.toNat + (s.reg x).toNat % 16 * Config.bigFontStride))

/-- BCD: the three digits at I, I + 1, I + 2 when all three addresses exist, every other byte and I as before; else MemoryOutOfRange
(R178; the abort is decision D2, log 10). -/
def Obligations.BcdStoresThreeDigits : Prop :=
  ∀ (x : RegIx) (s : State),
    (s.iAddr + 2 ≤ 4095 → Completes (exec (.bcd x) s) fun t => t = { s with mem := t.mem } ∧
      (t.mem.get s.iAddr).toNat = (s.reg x).toNat / 100 ∧
      (t.mem.get (s.iAddr + 1)).toNat = (s.reg x).toNat / 10 % 10 ∧
      (t.mem.get (s.iAddr + 2)).toNat = (s.reg x).toNat % 100 % 10 ∧
      ∀ a, a < s.iAddr ∨ s.iAddr + 2 < a → t.mem.get a = s.mem.get a) ∧
    (4095 < s.iAddr + 2 → Aborts s (exec (.bcd x) s) .memoryOutOfRange)

/-- LD [I], Vx: V0 to Vx at I, I + 1, …, every other byte as before; I is x + 1 higher under `i_incremented`, else the same; out of
range it aborts (R180; the abort is decision D2, log 10). -/
def Obligations.BulkStoreWritesV0ToVx : Prop :=
  ∀ (x : RegIx) (s : State),
    (s.iAddr + x.val ≤ 4095 → Completes (exec (.ldMemVx x) s) fun t => t = { s with mem := t.mem, i := t.i } ∧
      (∀ k : RegIx, k ≤ x → t.mem.get (s.iAddr + k.val) = s.reg k) ∧
      (∀ a, a < s.iAddr ∨ s.iAddr + x.val < a → t.mem.get a = s.mem.get a) ∧
      t.i.toNat = if s.inp.quirks.iIncremented = true then s.i.toNat + x.val + 1 else s.i.toNat) ∧
    (4095 < s.iAddr + x.val → Aborts s (exec (.ldMemVx x) s) .memoryOutOfRange)

/-- LD Vx, [I]: V0 to Vx from I, I + 1, …, the registers above x and all of memory as before; I as in the store; out of range it
aborts (R181; the abort is decision D2, log 10). -/
def Obligations.BulkLoadReadsV0ToVx : Prop :=
  ∀ (x : RegIx) (s : State),
    (s.iAddr + x.val ≤ 4095 → Completes (exec (.ldVxMem x) s) fun t => t = { s with v := t.v, i := t.i } ∧
      (∀ k : RegIx, t.reg k = if k ≤ x then s.mem.get (s.iAddr + k.val) else s.reg k) ∧
      t.i.toNat = if s.inp.quirks.iIncremented = true then s.i.toNat + x.val + 1 else s.i.toNat) ∧
    (4095 < s.iAddr + x.val → Aborts s (exec (.ldVxMem x) s) .memoryOutOfRange)

/-- SAVE Vx, Vy: register x at I, walking to register y, ascending or descending; every other byte and I as before, whatever
`i_incremented` says; out of range it aborts (R182, decision D13). -/
def Obligations.RangeStoreWalksFromXToY : Prop :=
  ∀ (x y : RegIx) (s : State),
    (s.iAddr + ((y.val - x.val) + (x.val - y.val)) ≤ 4095 → Completes (exec (.save x y) s) fun t => t = { s with mem := t.mem } ∧
      (∀ r : RegIx, x ≤ r → r ≤ y → t.mem.get (s.iAddr + (r.val - x.val)) = s.reg r) ∧
      (∀ r : RegIx, y ≤ r → r ≤ x → t.mem.get (s.iAddr + (x.val - r.val)) = s.reg r) ∧
      (∀ a, a < s.iAddr ∨ s.iAddr + ((y.val - x.val) + (x.val - y.val)) < a → t.mem.get a = s.mem.get a)) ∧
    (4095 < s.iAddr + ((y.val - x.val) + (x.val - y.val)) → Aborts s (exec (.save x y) s) .memoryOutOfRange)

/-- LOAD Vx, Vy: register x from I, walking to register y; the other registers, memory and I as before; out of range it aborts (R183,
decision D13). -/
def Obligations.RangeLoadWalksFromXToY : Prop :=
  ∀ (x y : RegIx) (s : State),
    (s.iAddr + ((y.val - x.val) + (x.val - y.val)) ≤ 4095 → Completes (exec (.load x y) s) fun t => t = { s with v := t.v } ∧
      (∀ r : RegIx, x ≤ r → r ≤ y → t.reg r = s.mem.get (s.iAddr + (r.val - x.val))) ∧
      (∀ r : RegIx, y ≤ r → r ≤ x → t.reg r = s.mem.get (s.iAddr + (x.val - r.val))) ∧
      (∀ r : RegIx, ¬(x ≤ r ∧ r ≤ y) → ¬(y ≤ r ∧ r ≤ x) → t.reg r = s.reg r)) ∧
    (4095 < s.iAddr + ((y.val - x.val) + (x.val - y.val)) → Aborts s (exec (.load x y) s) .memoryOutOfRange)

/-- LD R, Vx and LD Vx, R copy the first x + 1 bytes between the registers and the flag slot and leave the rest of both (R184, R185; that
x may be up to F is decision D36). -/
def Obligations.FlagSlotSavesAndRestores : Prop :=
  ∀ (x : RegIx) (s : State),
    (Completes (exec (.ldRVx x) s) fun t => t = { s with rpl := t.rpl } ∧
      ∀ k : RegIx, t.rpl.get k = if k ≤ x then s.reg k else s.rpl.get k) ∧
    (Completes (exec (.ldVxR x) s) fun t => t = { s with v := t.v } ∧
      ∀ k : RegIx, t.reg k = if k ≤ x then s.rpl.get k else s.reg k)

/-! ### Display (44_display.md) -/

/-- The four scrolls: each selected plane becomes the moved picture with zeros shifted in, at the resolution's size; an unselected plane
and everything else stay (R195 to R201, R203, R204; that the amounts are unscaled in both resolutions and what an amount of 0 or of
the whole extent does is decision D31, log 10). -/
def Obligations.ScrollsMoveTheSelectedPlanes : Prop :=
  ∀ (n : Nat) (s : State) (i : Instr) (f : List Bool → Nat → Nat → Bool),
    (i = .scd n ∧ f = fun p x y => if n ≤ y then pixelAt s.res.width p x (y - n) else false) ∨
      (i = .scu n ∧ f = fun p x y => if y + n < s.res.height then pixelAt s.res.width p x (y + n) else false) ∨
      (i = .scr ∧ f = fun p x y => if 4 ≤ x then pixelAt s.res.width p (x - 4) y else false) ∨
      (i = .scl ∧ f = fun p x y => if x + 4 < s.res.width then pixelAt s.res.width p (x + 4) y else false) →
    Completes (exec i s) fun t => t = { s with plane0 := t.plane0, plane1 := t.plane1 } ∧
      (s.selected 0 = false → t.plane0 = s.plane0) ∧ (s.selected 1 = false → t.plane1 = s.plane1) ∧
      (s.selected 0 = true → t.plane0.length = s.res.pixels ∧
        ∀ x y, x < s.res.width → y < s.res.height → pixelAt s.res.width t.plane0 x y = f s.plane0 x y) ∧
      (s.selected 1 = true → t.plane1.length = s.res.pixels ∧
        ∀ x y, x < s.res.width → y < s.res.height → pixelAt s.res.width t.plane1 x y = f s.plane1 x y)

/-- A scroll by 0 changes nothing on planes of the resolution's size; a scroll by the whole extent or more leaves only zeros (R199,
decision D31). -/
def Obligations.ScrollByNothingAndByEverything : Prop :=
  (∀ s : State, s.planesSized → exec (.scd 0) s = .next s ∧ exec (.scu 0) s = .next s) ∧
  (∀ (r : Resolution) (n : Nat) (p : List Bool), r.height ≤ n →
    scrolledDown r n p = blankPlane r ∧ scrolledUp r n p = blankPlane r) ∧
  (∀ (r : Resolution) (n : Nat) (p : List Bool), r.width ≤ n →
    scrolledRight r n p = blankPlane r ∧ scrolledLeft r n p = blankPlane r)

/-- CLS: every pixel of a selected plane is 0 and the plane has the resolution's size; an unselected plane and everything else stay (R202). -/
def Obligations.ClearZeroesTheSelectedPlanes : Prop :=
  ∀ s : State, Completes (exec .cls s) fun t => t = { s with plane0 := t.plane0, plane1 := t.plane1 } ∧
    t.plane0 = (if s.selected 0 = true then List.replicate s.res.pixels false else s.plane0) ∧
    t.plane1 = (if s.selected 1 = true then List.replicate s.res.pixels false else s.plane1)

/-- LOW and HIGH: the new resolution, both planes zero at its size whatever the mask and the old resolution, one notification, nothing
else (R193, R205, R206; that a switch to the same resolution does all this too is decision D16). -/
def Obligations.ResolutionSwitchClearsBothPlanes : Prop :=
  ∀ s : State,
    exec .low s = .next { s with
      res := .low, plane0 := List.replicate 2048 false, plane1 := List.replicate 2048 false,
      out := s.out ++ [.resolutionChanged .low] } ∧
    exec .high s = .next { s with
      res := .high, plane0 := List.replicate 8192 false, plane1 := List.replicate 8192 false,
      out := s.out ++ [.resolutionChanged .high] }

/-- PLANE x: the mask is the immediate's low two bits, nothing else changes (R194, R207). -/
def Obligations.PlaneSetsTheMask : Prop :=
  ∀ (m : Nat) (s : State), Completes (exec (.plane m) s) fun t => t.activePlane.toNat = m % 4 ∧ t = { s with activePlane := t.activePlane }

/-- SetPlanePixel toggles one pixel and reports whether it went 1 → 0; every other pixel stays; a second toggle of a pixel that was 0
reports the collision and restores the plane (R191). -/
def Obligations.PixelToggleReportsErasure : Prop :=
  ∀ (r : Resolution) (p : List Bool) (x y : Nat), p.length = r.pixels → x < r.width → y < r.height →
    (setPlanePixel r.width p x y).2 = pixelAt r.width p x y ∧
    (∀ x' y', x' < r.width → y' < r.height → pixelAt r.width (setPlanePixel r.width p x y).1 x' y' =
      if x' = x ∧ y' = y then !pixelAt r.width p x y else pixelAt r.width p x' y') ∧
    (setPlanePixel r.width (setPlanePixel r.width p x y).1 x y).1 = p ∧
    (setPlanePixel r.width (setPlanePixel r.width p x y).1 x y).2 = !(setPlanePixel r.width p x y).2

/-- DRW, when the sprite bytes of the selected planes exist: every pixel of a selected plane is toggled exactly when a lit bit of that
plane's sprite lands on it, every other pixel stays; VF is 1 exactly when some pixel of a selected plane was set and toggled,
else 0; plane 1's data follows plane 0's; the coordinates come from the registers before VF is written; nothing else changes
(R208, R209, R210; decisions D14, D15, D35). -/
def Obligations.DrawTogglesTheLitPixelsAndReportsErasure : Prop :=
  ∀ (x y : RegIx) (n : Nat) (s : State) (x0 y0 ptr1 : Nat), n < 16 → s.planesSized →
    x0 = (s.reg x).toNat % s.res.width → y0 = (s.reg y).toNat % s.res.height →
    ptr1 = (if s.selected 0 = true then s.i.toNat + (if n = 0 then 32 else n) else s.i.toNat) →
    (s.selectedCount = 0 ∨ s.i.toNat + (if n = 0 then 32 else n) * s.selectedCount ≤ 4096) →
    Completes (exec (.drw x y n) s) fun t => t = { s with v := t.v, plane0 := t.plane0, plane1 := t.plane1 } ∧
      t.plane0.length = s.res.pixels ∧ t.plane1.length = s.res.pixels ∧
      (∀ px py, px < s.res.width → py < s.res.height →
        (pixelAt s.res.width t.plane0 px py = true ↔
          ¬(pixelAt s.res.width s.plane0 px py = true ↔ s.selected 0 = true ∧ spriteLights s s.i.toNat n x0 y0 px py)) ∧
        (pixelAt s.res.width t.plane1 px py = true ↔
          ¬(pixelAt s.res.width s.plane1 px py = true ↔ s.selected 1 = true ∧ spriteLights s ptr1 n x0 y0 px py))) ∧
      (t.reg 15 = 1 ∨ t.reg 15 = 0) ∧
      (t.reg 15 = 1 ↔ ∃ px py, px < s.res.width ∧ py < s.res.height ∧
        ((pixelAt s.res.width s.plane0 px py = true ∧ s.selected 0 = true ∧ spriteLights s s.i.toNat n x0 y0 px py) ∨
          (pixelAt s.res.width s.plane1 px py = true ∧ s.selected 1 = true ∧ spriteLights s ptr1 n x0 y0 px py))) ∧
      ∀ r, r ≠ 15 → t.reg r = s.reg r

/-- DRW aborts exactly when a plane is selected and the sprite bytes of the selected planes are not all in memory, clipped rows counted;
when they are, it completes and writes nothing but the planes and VF; with no plane selected it only writes VF ← 0, wherever I points
(R209, decisions D2, D15, D35). -/
def Obligations.DrawChecksTheWholeSource : Prop :=
  ∀ (x y : RegIx) (n : Nat) (s : State), n < 16 →
    (s.selectedCount ≠ 0 → 4096 < s.i.toNat + (if n = 0 then 32 else n) * s.selectedCount →
      Aborts s (exec (.drw x y n) s) .memoryOutOfRange) ∧
    (s.selectedCount ≠ 0 → s.i.toNat + (if n = 0 then 32 else n) * s.selectedCount ≤ 4096 →
      Completes (exec (.drw x y n) s) fun t => t = { s with v := t.v, plane0 := t.plane0, plane1 := t.plane1 } ∧
        ∀ r, r ≠ 15 → t.reg r = s.reg r) ∧
    (s.activePlane = 0 → Completes (exec (.drw x y n) s) fun t => t = { s with v := t.v } ∧
      ∀ r, t.reg r = if r = 15 then 0 else s.reg r)

/-! ### Timers, key wait, audio (45_timers_keys_audio.md) -/

/-- LD Vx, DT reads the delay timer, LD DT, Vx writes it, LD ST, Vx writes the sound timer; a zero written there also sets the audio
buffer to 16 zeros, without a notification; nothing else changes (R220, R221, R222; decisions D17, D18). -/
def Obligations.TimerMoves : Prop :=
  ∀ (x : RegIx) (s : State),
    (Completes (exec (.ldVxDt x) s) fun t => t = { s with v := t.v } ∧ ∀ r, t.reg r = if r = x then s.dt else s.reg r) ∧
    exec (.ldDtVx x) s = .next { s with dt := s.reg x } ∧
    (Completes (exec (.ldStVx x) s) fun t => t = { s with st := s.reg x, audioBuffer := t.audioBuffer } ∧
      (s.reg x = 0 → ∀ k, t.audioBuffer.get k = 0) ∧ (s.reg x ≠ 0 → t.audioBuffer = s.audioBuffer))

/-- LD Vx, K creates the wait record and notifies; no key is sampled, Vx and pc stay (R223). -/
def Obligations.KeyWaitIsEntered : Prop :=
  ∀ (x : RegIx) (s : State),
    exec (.ldVxK x) s = .next { s with waiting := some { register := x, key := none }, out := s.out ++ [.waitingForKey] }

/-- AUDIO loads the 16 bytes at I and notifies, whatever its ignored field, or aborts when they are not all in memory; PITCH Vx sets the
pitch register and notifies nobody (R226, R227; the abort is decision D2, log 10; the ignored field as an operand is log 16). -/
def Obligations.AudioRegistersAreLoaded : Prop :=
  ∀ (u : Nat) (x : RegIx) (s : State),
    (s.i.toNat + 15 ≤ 4095 → Completes (exec (.audio u) s) fun t =>
      t = { s with audioBuffer := t.audioBuffer, out := s.out ++ [.audioBufferUpdated] } ∧
        ∀ k : Fin 16, t.audioBuffer.get k = s.mem.get (s.i.toNat + k.val)) ∧
    (4095 < s.i.toNat + 15 → Aborts s (exec (.audio u) s) .memoryOutOfRange) ∧
    exec (.pitch x) s = .next { s with bufferPitch := s.reg x }
end

