-- ==== Sys2Proof/Laws/State.lean ====
section
/-! SUPPORT. One lemma per field per named update of the state, true by `rfl`, so that no proof unfolds a record update. -/

namespace Sys2Proof.Machine

variable (s : State)

/-! ### `State.setReg` -/

@[simp] theorem setReg_v (x : RegIx) (b : Byte) : (s.setReg x b).v = s.v.set x b := rfl
@[simp] theorem setReg_pc (x : RegIx) (b : Byte) : (s.setReg x b).pc = s.pc := rfl
@[simp] theorem setReg_i (x : RegIx) (b : Byte) : (s.setReg x b).i = s.i := rfl
@[simp] theorem setReg_dt (x : RegIx) (b : Byte) : (s.setReg x b).dt = s.dt := rfl
@[simp] theorem setReg_st (x : RegIx) (b : Byte) : (s.setReg x b).st = s.st := rfl
@[simp] theorem setReg_stack (x : RegIx) (b : Byte) : (s.setReg x b).stack = s.stack := rfl
@[simp] theorem setReg_mem (x : RegIx) (b : Byte) : (s.setReg x b).mem = s.mem := rfl
@[simp] theorem setReg_res (x : RegIx) (b : Byte) : (s.setReg x b).res = s.res := rfl
@[simp] theorem setReg_plane0 (x : RegIx) (b : Byte) : (s.setReg x b).plane0 = s.plane0 := rfl
@[simp] theorem setReg_plane1 (x : RegIx) (b : Byte) : (s.setReg x b).plane1 = s.plane1 := rfl
@[simp] theorem setReg_activePlane (x : RegIx) (b : Byte) : (s.setReg x b).activePlane = s.activePlane := rfl
@[simp] theorem setReg_waiting (x : RegIx) (b : Byte) : (s.setReg x b).waiting = s.waiting := rfl
@[simp] theorem setReg_audioBuffer (x : RegIx) (b : Byte) : (s.setReg x b).audioBuffer = s.audioBuffer := rfl
@[simp] theorem setReg_bufferPitch (x : RegIx) (b : Byte) : (s.setReg x b).bufferPitch = s.bufferPitch := rfl
@[simp] theorem setReg_rpl (x : RegIx) (b : Byte) : (s.setReg x b).rpl = s.rpl := rfl
@[simp] theorem setReg_exitReq (x : RegIx) (b : Byte) : (s.setReg x b).exitReq = s.exitReq := rfl
@[simp] theorem setReg_running (x : RegIx) (b : Byte) : (s.setReg x b).running = s.running := rfl
@[simp] theorem setReg_halt (x : RegIx) (b : Byte) : (s.setReg x b).halt = s.halt := rfl
@[simp] theorem setReg_inp (x : RegIx) (b : Byte) : (s.setReg x b).inp = s.inp := rfl
@[simp] theorem setReg_inputCount (x : RegIx) (b : Byte) : (s.setReg x b).inputCount = s.inputCount := rfl
@[simp] theorem setReg_out (x : RegIx) (b : Byte) : (s.setReg x b).out = s.out := rfl

/-! ### `State.setRegFlag` -/

@[simp] theorem setRegFlag_v (x : RegIx) (b f : Byte) : (s.setRegFlag x b f).v = (s.v.set x b).set vF f := rfl
@[simp] theorem setRegFlag_pc (x : RegIx) (b f : Byte) : (s.setRegFlag x b f).pc = s.pc := rfl
@[simp] theorem setRegFlag_i (x : RegIx) (b f : Byte) : (s.setRegFlag x b f).i = s.i := rfl
@[simp] theorem setRegFlag_dt (x : RegIx) (b f : Byte) : (s.setRegFlag x b f).dt = s.dt := rfl
@[simp] theorem setRegFlag_st (x : RegIx) (b f : Byte) : (s.setRegFlag x b f).st = s.st := rfl
@[simp] theorem setRegFlag_stack (x : RegIx) (b f : Byte) : (s.setRegFlag x b f).stack = s.stack := rfl
@[simp] theorem setRegFlag_mem (x : RegIx) (b f : Byte) : (s.setRegFlag x b f).mem = s.mem := rfl
@[simp] theorem setRegFlag_res (x : RegIx) (b f : Byte) : (s.setRegFlag x b f).res = s.res := rfl
@[simp] theorem setRegFlag_plane0 (x : RegIx) (b f : Byte) : (s.setRegFlag x b f).plane0 = s.plane0 := rfl
@[simp] theorem setRegFlag_plane1 (x : RegIx) (b f : Byte) : (s.setRegFlag x b f).plane1 = s.plane1 := rfl
@[simp] theorem setRegFlag_activePlane (x : RegIx) (b f : Byte) : (s.setRegFlag x b f).activePlane = s.activePlane := rfl
@[simp] theorem setRegFlag_waiting (x : RegIx) (b f : Byte) : (s.setRegFlag x b f).waiting = s.waiting := rfl
@[simp] theorem setRegFlag_audioBuffer (x : RegIx) (b f : Byte) : (s.setRegFlag x b f).audioBuffer = s.audioBuffer := rfl
@[simp] theorem setRegFlag_bufferPitch (x : RegIx) (b f : Byte) : (s.setRegFlag x b f).bufferPitch = s.bufferPitch := rfl
@[simp] theorem setRegFlag_rpl (x : RegIx) (b f : Byte) : (s.setRegFlag x b f).rpl = s.rpl := rfl
@[simp] theorem setRegFlag_exitReq (x : RegIx) (b f : Byte) : (s.setRegFlag x b f).exitReq = s.exitReq := rfl
@[simp] theorem setRegFlag_running (x : RegIx) (b f : Byte) : (s.setRegFlag x b f).running = s.running := rfl
@[simp] theorem setRegFlag_halt (x : RegIx) (b f : Byte) : (s.setRegFlag x b f).halt = s.halt := rfl
@[simp] theorem setRegFlag_inp (x : RegIx) (b f : Byte) : (s.setRegFlag x b f).inp = s.inp := rfl
@[simp] theorem setRegFlag_inputCount (x : RegIx) (b f : Byte) : (s.setRegFlag x b f).inputCount = s.inputCount := rfl
@[simp] theorem setRegFlag_out (x : RegIx) (b f : Byte) : (s.setRegFlag x b f).out = s.out := rfl

/-! ### `State.advance` -/

@[simp] theorem advance_v : (s.advance).v = s.v := rfl
@[simp] theorem advance_pc : (s.advance).pc = s.pc + 2 := rfl
@[simp] theorem advance_i : (s.advance).i = s.i := rfl
@[simp] theorem advance_dt : (s.advance).dt = s.dt := rfl
@[simp] theorem advance_st : (s.advance).st = s.st := rfl
@[simp] theorem advance_stack : (s.advance).stack = s.stack := rfl
@[simp] theorem advance_mem : (s.advance).mem = s.mem := rfl
@[simp] theorem advance_res : (s.advance).res = s.res := rfl
@[simp] theorem advance_plane0 : (s.advance).plane0 = s.plane0 := rfl
@[simp] theorem advance_plane1 : (s.advance).plane1 = s.plane1 := rfl
@[simp] theorem advance_activePlane : (s.advance).activePlane = s.activePlane := rfl
@[simp] theorem advance_waiting : (s.advance).waiting = s.waiting := rfl
@[simp] theorem advance_audioBuffer : (s.advance).audioBuffer = s.audioBuffer := rfl
@[simp] theorem advance_bufferPitch : (s.advance).bufferPitch = s.bufferPitch := rfl
@[simp] theorem advance_rpl : (s.advance).rpl = s.rpl := rfl
@[simp] theorem advance_exitReq : (s.advance).exitReq = s.exitReq := rfl
@[simp] theorem advance_running : (s.advance).running = s.running := rfl
@[simp] theorem advance_halt : (s.advance).halt = s.halt := rfl
@[simp] theorem advance_inp : (s.advance).inp = s.inp := rfl
@[simp] theorem advance_inputCount : (s.advance).inputCount = s.inputCount := rfl
@[simp] theorem advance_out : (s.advance).out = s.out := rfl

/-! ### `State.push` -/

@[simp] theorem push_v (w : Word) : (s.push w).v = s.v := rfl
@[simp] theorem push_pc (w : Word) : (s.push w).pc = s.pc := rfl
@[simp] theorem push_i (w : Word) : (s.push w).i = s.i := rfl
@[simp] theorem push_dt (w : Word) : (s.push w).dt = s.dt := rfl
@[simp] theorem push_st (w : Word) : (s.push w).st = s.st := rfl
@[simp] theorem push_stack (w : Word) : (s.push w).stack = s.stack ++ [w] := rfl
@[simp] theorem push_mem (w : Word) : (s.push w).mem = s.mem := rfl
@[simp] theorem push_res (w : Word) : (s.push w).res = s.res := rfl
@[simp] theorem push_plane0 (w : Word) : (s.push w).plane0 = s.plane0 := rfl
@[simp] theorem push_plane1 (w : Word) : (s.push w).plane1 = s.plane1 := rfl
@[simp] theorem push_activePlane (w : Word) : (s.push w).activePlane = s.activePlane := rfl
@[simp] theorem push_waiting (w : Word) : (s.push w).waiting = s.waiting := rfl
@[simp] theorem push_audioBuffer (w : Word) : (s.push w).audioBuffer = s.audioBuffer := rfl
@[simp] theorem push_bufferPitch (w : Word) : (s.push w).bufferPitch = s.bufferPitch := rfl
@[simp] theorem push_rpl (w : Word) : (s.push w).rpl = s.rpl := rfl
@[simp] theorem push_exitReq (w : Word) : (s.push w).exitReq = s.exitReq := rfl
@[simp] theorem push_running (w : Word) : (s.push w).running = s.running := rfl
@[simp] theorem push_halt (w : Word) : (s.push w).halt = s.halt := rfl
@[simp] theorem push_inp (w : Word) : (s.push w).inp = s.inp := rfl
@[simp] theorem push_inputCount (w : Word) : (s.push w).inputCount = s.inputCount := rfl
@[simp] theorem push_out (w : Word) : (s.push w).out = s.out := rfl

/-! ### `State.emit` -/

@[simp] theorem emit_v (m : Message) : (s.emit m).v = s.v := rfl
@[simp] theorem emit_pc (m : Message) : (s.emit m).pc = s.pc := rfl
@[simp] theorem emit_i (m : Message) : (s.emit m).i = s.i := rfl
@[simp] theorem emit_dt (m : Message) : (s.emit m).dt = s.dt := rfl
@[simp] theorem emit_st (m : Message) : (s.emit m).st = s.st := rfl
@[simp] theorem emit_stack (m : Message) : (s.emit m).stack = s.stack := rfl
@[simp] theorem emit_mem (m : Message) : (s.emit m).mem = s.mem := rfl
@[simp] theorem emit_res (m : Message) : (s.emit m).res = s.res := rfl
@[simp] theorem emit_plane0 (m : Message) : (s.emit m).plane0 = s.plane0 := rfl
@[simp] theorem emit_plane1 (m : Message) : (s.emit m).plane1 = s.plane1 := rfl
@[simp] theorem emit_activePlane (m : Message) : (s.emit m).activePlane = s.activePlane := rfl
@[simp] theorem emit_waiting (m : Message) : (s.emit m).waiting = s.waiting := rfl
@[simp] theorem emit_audioBuffer (m : Message) : (s.emit m).audioBuffer = s.audioBuffer := rfl
@[simp] theorem emit_bufferPitch (m : Message) : (s.emit m).bufferPitch = s.bufferPitch := rfl
@[simp] theorem emit_rpl (m : Message) : (s.emit m).rpl = s.rpl := rfl
@[simp] theorem emit_exitReq (m : Message) : (s.emit m).exitReq = s.exitReq := rfl
@[simp] theorem emit_running (m : Message) : (s.emit m).running = s.running := rfl
@[simp] theorem emit_halt (m : Message) : (s.emit m).halt = s.halt := rfl
@[simp] theorem emit_inp (m : Message) : (s.emit m).inp = s.inp := rfl
@[simp] theorem emit_inputCount (m : Message) : (s.emit m).inputCount = s.inputCount := rfl
@[simp] theorem emit_out (m : Message) : (s.emit m).out = s.out ++ [m] := rfl

/-! ### `State.raiseAbort` -/

@[simp] theorem raiseAbort_v (r : AbortReason) : (s.raiseAbort r).v = s.v := rfl
@[simp] theorem raiseAbort_pc (r : AbortReason) : (s.raiseAbort r).pc = s.pc := rfl
@[simp] theorem raiseAbort_i (r : AbortReason) : (s.raiseAbort r).i = s.i := rfl
@[simp] theorem raiseAbort_dt (r : AbortReason) : (s.raiseAbort r).dt = s.dt := rfl
@[simp] theorem raiseAbort_st (r : AbortReason) : (s.raiseAbort r).st = s.st := rfl
@[simp] theorem raiseAbort_stack (r : AbortReason) : (s.raiseAbort r).stack = s.stack := rfl
@[simp] theorem raiseAbort_mem (r : AbortReason) : (s.raiseAbort r).mem = s.mem := rfl
@[simp] theorem raiseAbort_res (r : AbortReason) : (s.raiseAbort r).res = s.res := rfl
@[simp] theorem raiseAbort_plane0 (r : AbortReason) : (s.raiseAbort r).plane0 = s.plane0 := rfl
@[simp] theorem raiseAbort_plane1 (r : AbortReason) : (s.raiseAbort r).plane1 = s.plane1 := rfl
@[simp] theorem raiseAbort_activePlane (r : AbortReason) : (s.raiseAbort r).activePlane = s.activePlane := rfl
@[simp] theorem raiseAbort_waiting (r : AbortReason) : (s.raiseAbort r).waiting = s.waiting := rfl
@[simp] theorem raiseAbort_audioBuffer (r : AbortReason) : (s.raiseAbort r).audioBuffer = s.audioBuffer := rfl
@[simp] theorem raiseAbort_bufferPitch (r : AbortReason) : (s.raiseAbort r).bufferPitch = s.bufferPitch := rfl
@[simp] theorem raiseAbort_rpl (r : AbortReason) : (s.raiseAbort r).rpl = s.rpl := rfl
@[simp] theorem raiseAbort_exitReq (r : AbortReason) : (s.raiseAbort r).exitReq = s.exitReq := rfl
@[simp] theorem raiseAbort_running (r : AbortReason) : (s.raiseAbort r).running = s.running := rfl
@[simp] theorem raiseAbort_halt (r : AbortReason) : (s.raiseAbort r).halt = some r := rfl
@[simp] theorem raiseAbort_inp (r : AbortReason) : (s.raiseAbort r).inp = s.inp := rfl
@[simp] theorem raiseAbort_inputCount (r : AbortReason) : (s.raiseAbort r).inputCount = s.inputCount := rfl
@[simp] theorem raiseAbort_out (r : AbortReason) : (s.raiseAbort r).out = s.out := rfl

/-! ### `State.mapSelected` -/

@[simp] theorem mapSelected_v (f : List Bool → List Bool) : (s.mapSelected f).v = s.v := rfl
@[simp] theorem mapSelected_pc (f : List Bool → List Bool) : (s.mapSelected f).pc = s.pc := rfl
@[simp] theorem mapSelected_i (f : List Bool → List Bool) : (s.mapSelected f).i = s.i := rfl
@[simp] theorem mapSelected_dt (f : List Bool → List Bool) : (s.mapSelected f).dt = s.dt := rfl
@[simp] theorem mapSelected_st (f : List Bool → List Bool) : (s.mapSelected f).st = s.st := rfl
@[simp] theorem mapSelected_stack (f : List Bool → List Bool) : (s.mapSelected f).stack = s.stack := rfl
@[simp] theorem mapSelected_mem (f : List Bool → List Bool) : (s.mapSelected f).mem = s.mem := rfl
@[simp] theorem mapSelected_res (f : List Bool → List Bool) : (s.mapSelected f).res = s.res := rfl
@[simp] theorem mapSelected_plane0 (f : List Bool → List Bool) : (s.mapSelected f).plane0 = if s.selected 0 then f s.plane0 else s.plane0 := rfl
@[simp] theorem mapSelected_plane1 (f : List Bool → List Bool) : (s.mapSelected f).plane1 = if s.selected 1 then f s.plane1 else s.plane1 := rfl
@[simp] theorem mapSelected_activePlane (f : List Bool → List Bool) : (s.mapSelected f).activePlane = s.activePlane := rfl
@[simp] theorem mapSelected_waiting (f : List Bool → List Bool) : (s.mapSelected f).waiting = s.waiting := rfl
@[simp] theorem mapSelected_audioBuffer (f : List Bool → List Bool) : (s.mapSelected f).audioBuffer = s.audioBuffer := rfl
@[simp] theorem mapSelected_bufferPitch (f : List Bool → List Bool) : (s.mapSelected f).bufferPitch = s.bufferPitch := rfl
@[simp] theorem mapSelected_rpl (f : List Bool → List Bool) : (s.mapSelected f).rpl = s.rpl := rfl
@[simp] theorem mapSelected_exitReq (f : List Bool → List Bool) : (s.mapSelected f).exitReq = s.exitReq := rfl
@[simp] theorem mapSelected_running (f : List Bool → List Bool) : (s.mapSelected f).running = s.running := rfl
@[simp] theorem mapSelected_halt (f : List Bool → List Bool) : (s.mapSelected f).halt = s.halt := rfl
@[simp] theorem mapSelected_inp (f : List Bool → List Bool) : (s.mapSelected f).inp = s.inp := rfl
@[simp] theorem mapSelected_inputCount (f : List Bool → List Bool) : (s.mapSelected f).inputCount = s.inputCount := rfl
@[simp] theorem mapSelected_out (f : List Bool → List Bool) : (s.mapSelected f).out = s.out := rfl

/-! ### `State.setResolution` -/

@[simp] theorem setResolution_v (r : Resolution) : (s.setResolution r).v = s.v := rfl
@[simp] theorem setResolution_pc (r : Resolution) : (s.setResolution r).pc = s.pc := rfl
@[simp] theorem setResolution_i (r : Resolution) : (s.setResolution r).i = s.i := rfl
@[simp] theorem setResolution_dt (r : Resolution) : (s.setResolution r).dt = s.dt := rfl
@[simp] theorem setResolution_st (r : Resolution) : (s.setResolution r).st = s.st := rfl
@[simp] theorem setResolution_stack (r : Resolution) : (s.setResolution r).stack = s.stack := rfl
@[simp] theorem setResolution_mem (r : Resolution) : (s.setResolution r).mem = s.mem := rfl
@[simp] theorem setResolution_res (r : Resolution) : (s.setResolution r).res = r := rfl
@[simp] theorem setResolution_plane0 (r : Resolution) : (s.setResolution r).plane0 = blankPlane r := rfl
@[simp] theorem setResolution_plane1 (r : Resolution) : (s.setResolution r).plane1 = blankPlane r := rfl
@[simp] theorem setResolution_activePlane (r : Resolution) : (s.setResolution r).activePlane = s.activePlane := rfl
@[simp] theorem setResolution_waiting (r : Resolution) : (s.setResolution r).waiting = s.waiting := rfl
@[simp] theorem setResolution_audioBuffer (r : Resolution) : (s.setResolution r).audioBuffer = s.audioBuffer := rfl
@[simp] theorem setResolution_bufferPitch (r : Resolution) : (s.setResolution r).bufferPitch = s.bufferPitch := rfl
@[simp] theorem setResolution_rpl (r : Resolution) : (s.setResolution r).rpl = s.rpl := rfl
@[simp] theorem setResolution_exitReq (r : Resolution) : (s.setResolution r).exitReq = s.exitReq := rfl
@[simp] theorem setResolution_running (r : Resolution) : (s.setResolution r).running = s.running := rfl
@[simp] theorem setResolution_halt (r : Resolution) : (s.setResolution r).halt = s.halt := rfl
@[simp] theorem setResolution_inp (r : Resolution) : (s.setResolution r).inp = s.inp := rfl
@[simp] theorem setResolution_inputCount (r : Resolution) : (s.setResolution r).inputCount = s.inputCount := rfl
@[simp] theorem setResolution_out (r : Resolution) : (s.setResolution r).out = s.out := rfl

/-! ### `State.setActivePlane` -/

@[simp] theorem setActivePlane_v (m : Nat) : (s.setActivePlane m).v = s.v := rfl
@[simp] theorem setActivePlane_pc (m : Nat) : (s.setActivePlane m).pc = s.pc := rfl
@[simp] theorem setActivePlane_i (m : Nat) : (s.setActivePlane m).i = s.i := rfl
@[simp] theorem setActivePlane_dt (m : Nat) : (s.setActivePlane m).dt = s.dt := rfl
@[simp] theorem setActivePlane_st (m : Nat) : (s.setActivePlane m).st = s.st := rfl
@[simp] theorem setActivePlane_stack (m : Nat) : (s.setActivePlane m).stack = s.stack := rfl
@[simp] theorem setActivePlane_mem (m : Nat) : (s.setActivePlane m).mem = s.mem := rfl
@[simp] theorem setActivePlane_res (m : Nat) : (s.setActivePlane m).res = s.res := rfl
@[simp] theorem setActivePlane_plane0 (m : Nat) : (s.setActivePlane m).plane0 = s.plane0 := rfl
@[simp] theorem setActivePlane_plane1 (m : Nat) : (s.setActivePlane m).plane1 = s.plane1 := rfl
@[simp] theorem setActivePlane_activePlane (m : Nat) : (s.setActivePlane m).activePlane = BitVec.ofNat 2 m := rfl
@[simp] theorem setActivePlane_waiting (m : Nat) : (s.setActivePlane m).waiting = s.waiting := rfl
@[simp] theorem setActivePlane_audioBuffer (m : Nat) : (s.setActivePlane m).audioBuffer = s.audioBuffer := rfl
@[simp] theorem setActivePlane_bufferPitch (m : Nat) : (s.setActivePlane m).bufferPitch = s.bufferPitch := rfl
@[simp] theorem setActivePlane_rpl (m : Nat) : (s.setActivePlane m).rpl = s.rpl := rfl
@[simp] theorem setActivePlane_exitReq (m : Nat) : (s.setActivePlane m).exitReq = s.exitReq := rfl
@[simp] theorem setActivePlane_running (m : Nat) : (s.setActivePlane m).running = s.running := rfl
@[simp] theorem setActivePlane_halt (m : Nat) : (s.setActivePlane m).halt = s.halt := rfl
@[simp] theorem setActivePlane_inp (m : Nat) : (s.setActivePlane m).inp = s.inp := rfl
@[simp] theorem setActivePlane_inputCount (m : Nat) : (s.setActivePlane m).inputCount = s.inputCount := rfl
@[simp] theorem setActivePlane_out (m : Nat) : (s.setActivePlane m).out = s.out := rfl

/-! ### `State.clearOut` -/

@[simp] theorem clearOut_v : (s.clearOut).v = s.v := rfl
@[simp] theorem clearOut_pc : (s.clearOut).pc = s.pc := rfl
@[simp] theorem clearOut_i : (s.clearOut).i = s.i := rfl
@[simp] theorem clearOut_dt : (s.clearOut).dt = s.dt := rfl
@[simp] theorem clearOut_st : (s.clearOut).st = s.st := rfl
@[simp] theorem clearOut_stack : (s.clearOut).stack = s.stack := rfl
@[simp] theorem clearOut_mem : (s.clearOut).mem = s.mem := rfl
@[simp] theorem clearOut_res : (s.clearOut).res = s.res := rfl
@[simp] theorem clearOut_plane0 : (s.clearOut).plane0 = s.plane0 := rfl
@[simp] theorem clearOut_plane1 : (s.clearOut).plane1 = s.plane1 := rfl
@[simp] theorem clearOut_activePlane : (s.clearOut).activePlane = s.activePlane := rfl
@[simp] theorem clearOut_waiting : (s.clearOut).waiting = s.waiting := rfl
@[simp] theorem clearOut_audioBuffer : (s.clearOut).audioBuffer = s.audioBuffer := rfl
@[simp] theorem clearOut_bufferPitch : (s.clearOut).bufferPitch = s.bufferPitch := rfl
@[simp] theorem clearOut_rpl : (s.clearOut).rpl = s.rpl := rfl
@[simp] theorem clearOut_exitReq : (s.clearOut).exitReq = s.exitReq := rfl
@[simp] theorem clearOut_running : (s.clearOut).running = s.running := rfl
@[simp] theorem clearOut_halt : (s.clearOut).halt = s.halt := rfl
@[simp] theorem clearOut_inp : (s.clearOut).inp = s.inp := rfl
@[simp] theorem clearOut_inputCount : (s.clearOut).inputCount = s.inputCount := rfl
@[simp] theorem clearOut_out : (s.clearOut).out = [] := rfl

/-! ### `State.clearAudioBuffer` -/

@[simp] theorem clearAudioBuffer_v : (s.clearAudioBuffer).v = s.v := rfl
@[simp] theorem clearAudioBuffer_pc : (s.clearAudioBuffer).pc = s.pc := rfl
@[simp] theorem clearAudioBuffer_i : (s.clearAudioBuffer).i = s.i := rfl
@[simp] theorem clearAudioBuffer_dt : (s.clearAudioBuffer).dt = s.dt := rfl
@[simp] theorem clearAudioBuffer_st : (s.clearAudioBuffer).st = s.st := rfl
@[simp] theorem clearAudioBuffer_stack : (s.clearAudioBuffer).stack = s.stack := rfl
@[simp] theorem clearAudioBuffer_mem : (s.clearAudioBuffer).mem = s.mem := rfl
@[simp] theorem clearAudioBuffer_res : (s.clearAudioBuffer).res = s.res := rfl
@[simp] theorem clearAudioBuffer_plane0 : (s.clearAudioBuffer).plane0 = s.plane0 := rfl
@[simp] theorem clearAudioBuffer_plane1 : (s.clearAudioBuffer).plane1 = s.plane1 := rfl
@[simp] theorem clearAudioBuffer_activePlane : (s.clearAudioBuffer).activePlane = s.activePlane := rfl
@[simp] theorem clearAudioBuffer_waiting : (s.clearAudioBuffer).waiting = s.waiting := rfl
@[simp] theorem clearAudioBuffer_audioBuffer : (s.clearAudioBuffer).audioBuffer = silentBuffer := rfl
@[simp] theorem clearAudioBuffer_bufferPitch : (s.clearAudioBuffer).bufferPitch = s.bufferPitch := rfl
@[simp] theorem clearAudioBuffer_rpl : (s.clearAudioBuffer).rpl = s.rpl := rfl
@[simp] theorem clearAudioBuffer_exitReq : (s.clearAudioBuffer).exitReq = s.exitReq := rfl
@[simp] theorem clearAudioBuffer_running : (s.clearAudioBuffer).running = s.running := rfl
@[simp] theorem clearAudioBuffer_halt : (s.clearAudioBuffer).halt = s.halt := rfl
@[simp] theorem clearAudioBuffer_inp : (s.clearAudioBuffer).inp = s.inp := rfl
@[simp] theorem clearAudioBuffer_inputCount : (s.clearAudioBuffer).inputCount = s.inputCount := rfl
@[simp] theorem clearAudioBuffer_out : (s.clearAudioBuffer).out = s.out := rfl

/-! ### `State.nextInput` -/

@[simp] theorem nextInput_v : (s.nextInput).v = s.v := rfl
@[simp] theorem nextInput_pc : (s.nextInput).pc = s.pc := rfl
@[simp] theorem nextInput_i : (s.nextInput).i = s.i := rfl
@[simp] theorem nextInput_dt : (s.nextInput).dt = s.dt := rfl
@[simp] theorem nextInput_st : (s.nextInput).st = s.st := rfl
@[simp] theorem nextInput_stack : (s.nextInput).stack = s.stack := rfl
@[simp] theorem nextInput_mem : (s.nextInput).mem = s.mem := rfl
@[simp] theorem nextInput_res : (s.nextInput).res = s.res := rfl
@[simp] theorem nextInput_plane0 : (s.nextInput).plane0 = s.plane0 := rfl
@[simp] theorem nextInput_plane1 : (s.nextInput).plane1 = s.plane1 := rfl
@[simp] theorem nextInput_activePlane : (s.nextInput).activePlane = s.activePlane := rfl
@[simp] theorem nextInput_waiting : (s.nextInput).waiting = s.waiting := rfl
@[simp] theorem nextInput_audioBuffer : (s.nextInput).audioBuffer = s.audioBuffer := rfl
@[simp] theorem nextInput_bufferPitch : (s.nextInput).bufferPitch = s.bufferPitch := rfl
@[simp] theorem nextInput_rpl : (s.nextInput).rpl = s.rpl := rfl
@[simp] theorem nextInput_exitReq : (s.nextInput).exitReq = s.exitReq := rfl
@[simp] theorem nextInput_running : (s.nextInput).running = s.running := rfl
@[simp] theorem nextInput_halt : (s.nextInput).halt = s.halt := rfl
@[simp] theorem nextInput_inp : (s.nextInput).inp = Config.hostInputs s.inputCount := rfl
@[simp] theorem nextInput_inputCount : (s.nextInput).inputCount = s.inputCount + 1 := rfl
@[simp] theorem nextInput_out : (s.nextInput).out = s.out := rfl

/-! ### `State.resetBlock` -/

@[simp] theorem resetBlock_v : (s.resetBlock).v = State.reset.v := rfl
@[simp] theorem resetBlock_pc : (s.resetBlock).pc = State.reset.pc := rfl
@[simp] theorem resetBlock_i : (s.resetBlock).i = State.reset.i := rfl
@[simp] theorem resetBlock_dt : (s.resetBlock).dt = State.reset.dt := rfl
@[simp] theorem resetBlock_st : (s.resetBlock).st = State.reset.st := rfl
@[simp] theorem resetBlock_stack : (s.resetBlock).stack = State.reset.stack := rfl
@[simp] theorem resetBlock_mem : (s.resetBlock).mem = State.reset.mem := rfl
@[simp] theorem resetBlock_res : (s.resetBlock).res = State.reset.res := rfl
@[simp] theorem resetBlock_plane0 : (s.resetBlock).plane0 = State.reset.plane0 := rfl
@[simp] theorem resetBlock_plane1 : (s.resetBlock).plane1 = State.reset.plane1 := rfl
@[simp] theorem resetBlock_activePlane : (s.resetBlock).activePlane = State.reset.activePlane := rfl
@[simp] theorem resetBlock_waiting : (s.resetBlock).waiting = State.reset.waiting := rfl
@[simp] theorem resetBlock_audioBuffer : (s.resetBlock).audioBuffer = State.reset.audioBuffer := rfl
@[simp] theorem resetBlock_bufferPitch : (s.resetBlock).bufferPitch = State.reset.bufferPitch := rfl
@[simp] theorem resetBlock_rpl : (s.resetBlock).rpl = s.rpl := rfl
@[simp] theorem resetBlock_exitReq : (s.resetBlock).exitReq = State.reset.exitReq := rfl
@[simp] theorem resetBlock_running : (s.resetBlock).running = State.reset.running := rfl
@[simp] theorem resetBlock_halt : (s.resetBlock).halt = State.reset.halt := rfl
@[simp] theorem resetBlock_inp : (s.resetBlock).inp = s.inp := rfl
@[simp] theorem resetBlock_inputCount : (s.resetBlock).inputCount = s.inputCount := rfl
@[simp] theorem resetBlock_out : (s.resetBlock).out = State.reset.out := rfl

/-! ### Updates under a quirk -/

theorem forceVfZero_eq : s.forceVfZero = { s with v := if s.inp.quirks.vfZero then s.v.set vF 0 else s.v } := by
  unfold State.forceVfZero; split <;> rfl

theorem incrementI_eq (x : RegIx) :
    s.incrementI x = { s with i := if s.inp.quirks.iIncremented then BitVec.ofNat 16 (s.i.toNat + x.val + 1) else s.i } := by
  unfold State.incrementI; split <;> rfl

theorem tick_eq :
    s.tick = { s with dt := if s.live then countDown s.dt else s.dt, st := if s.live then countDown s.st else s.st } := by
  unfold State.tick; split <;> rfl

end Sys2Proof.Machine
end

