-- ==== Sys2Proof/Laws/Memory.lean ====
section
/-! SUPPORT. The laws of memory: a read after a write, every other place left alone, and the canonical form kept by every operation. -/

namespace Sys2Proof.Machine

theorem accessOk_iff (a n : Nat) : accessOk a n = true ↔ n = 0 ∨ a + n ≤ 4096 := decide_eq_true_iff

theorem Memory.get_filter_ne (m : Memory) (a x : Nat) :
    Memory.get (m.filter fun c => c.1 ≠ a) x = if x = a then Memory.initial a else m.get x := by
  induction m with
  | nil => simp only [List.filter_nil, Memory.get]; split <;> simp_all
  | cons c m ih =>
    obtain ⟨k, b⟩ := c
    by_cases hk : k = a
    · subst hk
      simp only [ne_eq, not_true_eq_false, decide_false, Bool.false_eq_true, not_false_eq_true, List.filter_cons_of_neg]
      rw [show (List.filter (fun c : Host.Cell => decide ¬c.1 = k) m) = m.filter fun c => c.1 ≠ k from rfl, ih]
      simp only [Memory.get]
      split <;> rfl
    · rw [List.filter_cons_of_pos (by simpa using hk)]
      simp only [Memory.get]
      rw [show (List.filter (fun c : Host.Cell => decide (c.1 ≠ a)) m) = m.filter fun c => c.1 ≠ a from rfl, ih]
      split
      · subst x; simp [hk]
      · rfl

theorem Memory.get_insert (m : Memory) (a : Nat) (b : Byte) (x : Nat) (ha : ∀ c ∈ m, c.1 ≠ a) :
    Memory.get (m.insert a b) x = if x = a then b else m.get x := by
  induction m with
  | nil => simp [Memory.insert, Memory.get]
  | cons c m ih =>
    obtain ⟨k, y⟩ := c
    have hk : k ≠ a := ha (k, y) (by simp)
    have ih := ih fun c hc => ha c (by simp [hc])
    simp only [Memory.insert]
    split
    · simp [Memory.get]
    · simp only [Memory.get, ih]
      split
      · subst x; simp [hk]
      · rfl

/-- A read after a write to the same place gives the byte written; every other place is left alone. No premise on the memory. -/
theorem Memory.get_set (m : Memory) (a : Nat) (b : Byte) (x : Nat) :
    Memory.get (m.set a b) x = if x = a then b else m.get x := by
  unfold Memory.set
  split
  · rename_i h; rw [Memory.get_filter_ne, h]
  · rw [Memory.get_insert _ _ _ _ (by simp), Memory.get_filter_ne]
    split <;> simp_all

theorem Memory.mem_insert (m : Memory) (a : Nat) (b : Byte) (c : Host.Cell) :
    c ∈ m.insert a b ↔ c = (a, b) ∨ c ∈ m := by
  induction m with
  | nil => simp [Memory.insert]
  | cons d m ih =>
    obtain ⟨k, y⟩ := d
    simp only [Memory.insert]
    split
    · simp
    · rw [List.mem_cons, ih, List.mem_cons]; tauto

theorem Memory.wf_filter (m : Memory) (p : Host.Cell → Bool) (h : m.wf) : Memory.wf (m.filter p) :=
  ⟨h.1.filter p, fun c hc => h.2 c (List.mem_filter.1 hc).1⟩

theorem Memory.wf_insert (m : Memory) (a : Nat) (b : Byte) (h : m.wf) (hm : ∀ c ∈ m, c.1 ≠ a) (ha : a < 4096)
    (hb : b ≠ Memory.initial a) : Memory.wf (m.insert a b) := by
  refine ⟨?_, fun c hc => ?_⟩
  · induction m with
    | nil => simp [Memory.insert]
    | cons d m ih =>
      obtain ⟨k, y⟩ := d
      obtain ⟨hp, hin⟩ := h
      rw [List.pairwise_cons] at hp
      have hk : k ≠ a := hm (k, y) (by simp)
      simp only [Memory.insert]
      split
      · rename_i hlt
        refine List.pairwise_cons.2 ⟨fun c hc => ?_, List.pairwise_cons.2 hp⟩
        rcases List.mem_cons.1 hc with rfl | hc
        · exact hlt
        · exact lt_trans hlt (hp.1 c hc)
      · rename_i hlt
        refine List.pairwise_cons.2 ⟨fun c hc => ?_, ih ⟨hp.2, fun c hc => hin c (by simp [hc])⟩ fun c hc => hm c (by simp [hc])⟩
        rcases (Memory.mem_insert m a b c).1 hc with rfl | hc
        · show k < a; omega
        · exact hp.1 c hc
  · rcases (Memory.mem_insert m a b c).1 hc with rfl | hc
    · exact ⟨ha, hb⟩
    · exact h.2 c hc

/-- A write inside memory keeps the canonical form. -/
theorem Memory.wf_set (m : Memory) (a : Nat) (b : Byte) (h : m.wf) (ha : a < 4096) : Memory.wf (m.set a b) := by
  unfold Memory.set
  split
  · exact Memory.wf_filter _ _ h
  · rename_i hb
    exact Memory.wf_insert _ _ _ (Memory.wf_filter _ _ h) (by simp) ha hb

/-- What a sequence of bytes written from `a` on does to every address. -/
theorem Memory.get_setBytes (bs : List Byte) (m : Memory) (a x : Nat) :
    (m.setBytes a bs).get x = if h : a ≤ x ∧ x - a < bs.length then bs[x - a]'h.2 else m.get x := by
  induction bs generalizing m a with
  | nil => simp [Memory.setBytes]
  | cons b bs ih =>
    rw [Memory.setBytes, ih, Memory.get_set]
    by_cases hx : x = a
    · subst hx; simp
    · by_cases h1 : a + 1 ≤ x ∧ x - (a + 1) < bs.length
      · have h2 : a ≤ x ∧ x - a < (b :: bs).length := by simp only [List.length_cons]; omega
        have h3 : x - a = x - (a + 1) + 1 := by omega
        rw [dif_pos h1, dif_pos h2]
        simp only [h3, List.getElem_cons_succ]
      · have h2 : ¬(a ≤ x ∧ x - a < (b :: bs).length) := by simp only [List.length_cons]; omega
        simp only [dif_neg h1, dif_neg h2, if_neg hx]

/-- Bytes written inside memory keep the canonical form. -/
theorem Memory.wf_setBytes (bs : List Byte) (m : Memory) (a : Nat) (h : m.wf) (ha : bs = [] ∨ a + bs.length ≤ 4096) :
    (m.setBytes a bs).wf := by
  induction bs generalizing m a with
  | nil => exact h
  | cons b bs ih =>
    simp only [reduceCtorEq, List.length_cons, false_or] at ha
    exact ih _ _ (Memory.wf_set m a b h (by omega)) (.inr (by omega))

/-- Memory after a reset is canonical: nothing is listed. -/
theorem reset_mem_wf : State.reset.mem.wf := ⟨List.Pairwise.nil, fun _ hc => nomatch hc⟩

theorem Memory.window_length (m : Memory) (a n : Nat) : (m.window a n).length = min n (4096 - a) := by
  simp [Memory.window, Config.memSize]

theorem Memory.window_getElem (m : Memory) (a n k : Nat) (h : k < (m.window a n).length) :
    (m.window a n)[k] = m.get (a + k) := by
  simp [Memory.window]

/-- A word is read exactly when both of its bytes exist, the byte at the lower address high. -/
theorem Memory.readWord_eq (m : Memory) (a : Nat) :
    m.readWord a = if a ≤ 4094 then some (wordOfBytes (m.get a) (m.get (a + 1))) else none := by
  unfold Memory.readWord
  have : accessOk a 2 = true ↔ a ≤ 4094 := by rw [accessOk_iff]; omega
  split <;> simp_all

end Sys2Proof.Machine
end

