-- ==== Sys2Proof/Laws/Operands.lean ====
section
/-! SUPPORT. What the register accessors, the register ranges, the skip helper, the stack unit and the range check do: one lemma each. -/

namespace Sys2Proof.Machine

/-! ### Registers -/

/-- A register read after a register write (R21, R23). -/
@[simp] theorem reg_setReg (s : State) (x r : RegIx) (b : Byte) :
    (s.setReg x b).reg r = if r = x then b else s.reg r := by
  simp only [State.reg, State.setReg, Vector.get_eq_getElem, Vector.getElem_set, Fin.ext_iff, eq_comm]

/-- Result first, flag second: at VF the flag is what is read (R152). -/
@[simp] theorem reg_setRegFlag (s : State) (x r : RegIx) (b f : Byte) :
    (s.setRegFlag x b f).reg r = if r = 15 then f else if r = x then b else s.reg r := by
  simp [State.setRegFlag, vF]

theorem reg_ofFn (s : State) (f : RegIx → Byte) (r : RegIx) : ({ s with v := Vector.ofFn f } : State).reg r = f r := by
  simp [State.reg, Vector.get_eq_getElem]

theorem get_ofFn {α : Type} (f : Fin 16 → α) (r : Fin 16) : (Vector.ofFn f).get r = f r := by
  simp [Vector.get_eq_getElem]

/-- VF under `vf_zero`, every other register as before (R154 to R156). -/
theorem reg_forceVfZero (s : State) (r : RegIx) :
    s.forceVfZero.reg r = if r = 15 ∧ s.inp.quirks.vfZero = true then 0 else s.reg r := by
  unfold State.forceVfZero
  cases s.inp.quirks.vfZero <;> simp [vF]

/-! ### Register ranges (R180 to R183) -/

theorem regDistance_eq (x y : RegIx) : regDistance x y = (y.val - x.val) + (x.val - y.val) := by
  unfold regDistance
  split <;> rename_i h <;> rw [Fin.le_def] at h <;> omega

theorem regRange_length (x y : RegIx) : (regRange x y).length = regDistance x y + 1 := by simp [regRange]

/-- The k-th register of a range. -/
theorem regRange_getElem (x y : RegIx) (k : Nat) (h : k < (regRange x y).length) :
    ((regRange x y)[k]).val = if x ≤ y then x.val + k else x.val - k := by
  rw [regRange_length, regDistance_eq] at h
  simp only [regRange, List.getElem_map, List.getElem_range]
  split <;> rename_i hxy <;> rw [Fin.le_def] at hxy <;> simp only [Fin.ofNat] <;> omega

/-- The registers of a range are those between its ends. -/
theorem mem_regRange (x y r : RegIx) : r ∈ regRange x y ↔ (x ≤ r ∧ r ≤ y) ∨ (y ≤ r ∧ r ≤ x) := by
  rw [List.mem_iff_getElem]
  constructor
  · rintro ⟨k, hk, rfl⟩
    have hv := regRange_getElem x y k hk
    rw [regRange_length, regDistance_eq] at hk
    simp only [Fin.le_def] at hv ⊢
    split at hv <;> omega
  · intro h
    have hk : regDistance x r < (regRange x y).length := by
      rw [regRange_length, regDistance_eq, regDistance_eq]
      simp only [Fin.le_def] at h
      omega
    refine ⟨regDistance x r, hk, Fin.ext ?_⟩
    rw [regRange_getElem, regDistance_eq]
    simp only [Fin.le_def] at h ⊢
    split <;> omega

theorem regBytes_length (s : State) (x y : RegIx) : (s.regBytes x y).length = regDistance x y + 1 := by
  simp [State.regBytes, regRange_length]

/-- The byte a range store writes for a register of the range. -/
theorem regBytes_getElem (s : State) (x y r : RegIx) (h : (x ≤ r ∧ r ≤ y) ∨ (y ≤ r ∧ r ≤ x))
    (hk : regDistance x r < (s.regBytes x y).length) : (s.regBytes x y)[regDistance x r] = s.reg r := by
  have hk' : regDistance x r < (regRange x y).length := by rwa [regBytes_length, ← regRange_length] at hk
  have : (regRange x y)[regDistance x r] = r := by
    apply Fin.ext
    rw [regRange_getElem, regDistance_eq]
    simp only [Fin.le_def] at h ⊢
    split <;> omega
  simp [State.regBytes, this]

/-- A range load: the registers of the range get their bytes, the others stay (R181, R183). -/
theorem reg_loadRegs (s : State) (m : Memory) (a : Nat) (x y r : RegIx) :
    ({ s with v := loadRegs s.v m a x y } : State).reg r =
      if (x ≤ r ∧ r ≤ y) ∨ (y ≤ r ∧ r ≤ x) then m.get (a + regDistance x r) else s.reg r := by
  rw [loadRegs, reg_ofFn]
  simp only [mem_regRange]
  rfl

/-- A copy up to x: the first x + 1 bytes from the source, the rest as they were (R184, R185). -/
theorem get_copyUpTo (x k : RegIx) (src dst : Vector Byte 16) :
    (copyUpTo x src dst).get k = if k ≤ x then src.get k else dst.get k := by
  rw [copyUpTo, get_ofFn]

/-! ### The range check, the stack unit, the skip -/

/-- In range, the range check does what follows it. -/
theorem withRange_of_ok {a n : Nat} (s : State) (k : Result) (h : n = 0 ∨ a + n ≤ 4096) : withRange a n s k = k := by
  rw [withRange, if_pos ((accessOk_iff a n).2 h)]

/-- Out of range, it aborts. -/
theorem withRange_of_not_ok {a n : Nat} (s : State) (k : Result) (h : ¬(n = 0 ∨ a + n ≤ 4096)) :
    withRange a n s k = abort .memoryOutOfRange s := by
  rw [withRange, if_neg (by rw [accessOk_iff]; exact h)]

/-- All a range check can do. -/
theorem withRange_cases (a n : Nat) (s : State) (k : Result) :
    ((n = 0 ∨ a + n ≤ 4096) ∧ withRange a n s k = k) ∨
      ((n ≠ 0 ∧ 4096 < a + n) ∧ withRange a n s k = abort .memoryOutOfRange s) := by
  by_cases h : n = 0 ∨ a + n ≤ 4096
  · exact .inl ⟨h, withRange_of_ok s k h⟩
  · exact .inr ⟨by omega, withRange_of_not_ok s k h⟩

/-- An abort sets `halt`, keeps the flag slot, and that is what is said of it. -/
theorem abort_aborts (s : State) (r : AbortReason) : Aborts s (abort r s) r := ⟨_, rfl, rfl, rfl⟩

/-- All a skip can do: pass the next instruction, two or four bytes, or abort where the next word does not exist (R134). -/
theorem skip_cases (s : State) :
    (s.pc.toNat ≤ 4094 ∧ wordOfBytes (s.mem.get s.pc.toNat) (s.mem.get (s.pc.toNat + 1)) = extMarker ∧
      skip s = .next { s with pc := s.pc + 4 }) ∨
    (s.pc.toNat ≤ 4094 ∧ wordOfBytes (s.mem.get s.pc.toNat) (s.mem.get (s.pc.toNat + 1)) ≠ extMarker ∧
      skip s = .next { s with pc := s.pc + 2 }) ∨
    (4094 < s.pc.toNat ∧ skip s = abort .memoryOutOfRange s) := by
  unfold skip
  rw [Memory.readWord_eq]
  by_cases h : s.pc.toNat ≤ 4094
  · simp only [h, if_true, true_and]
    by_cases hw : wordOfBytes (s.mem.get s.pc.toNat) (s.mem.get (s.pc.toNat + 1)) = extMarker
    · simp [hw]
    · simp [hw]
  · rw [if_neg h]
    exact .inr (.inr ⟨by omega, rfl⟩)

theorem wordOfBytes_eq_extMarker (hi lo : Byte) : wordOfBytes hi lo = extMarker ↔ hi = 0xF0 ∧ lo = 0x00 := by
  unfold wordOfBytes extMarker
  rw [← BitVec.toNat_inj, ← BitVec.toNat_inj, ← BitVec.toNat_inj, BitVec.toNat_append]
  have h1 := hi.isLt; have h2 := lo.isLt
  rw [← Nat.shiftLeft_add_eq_or_of_lt h2]
  have e1 : (0xF000 : Word).toNat = 61440 := rfl
  have e2 : (0xF0 : Byte).toNat = 240 := rfl
  have e3 : (0x00 : Byte).toNat = 0 := rfl
  rw [Nat.shiftLeft_eq, e1, e2, e3]
  omega

theorem skipIf_true (s : State) : skipIf true s = skip s := rfl

theorem skipIf_false (s : State) : skipIf false s = .next s := rfl

/-- All a pop can do (R71, R72). -/
theorem pop_cases (s : State) :
    (s.stack = [] ∧ s.pop = none) ∨
      ∃ rest w, s.stack = rest ++ [w] ∧ s.pop = some (w, { s with stack := rest }) := by
  unfold State.pop
  rcases List.eq_nil_or_concat s.stack with h | ⟨rest, w, h⟩
  · exact .inl ⟨h, by simp [h]⟩
  · rw [List.concat_eq_append] at h
    exact .inr ⟨rest, w, h, by simp [h]⟩

/-- The key a register value names (R141). -/
theorem keyIndex_cases (b : Byte) :
    (15 < b.toNat ∧ keyIndex b = none) ∨ ∃ k : Fin 16, k.val = b.toNat ∧ keyIndex b = some k := by
  unfold keyIndex
  split
  · rename_i h; exact .inr ⟨⟨b.toNat, h⟩, rfl, rfl⟩
  · exact .inl ⟨by omega, rfl⟩

end Sys2Proof.Machine
end

