-- ==== Sys2Proof/Laws/Screen.lean ====
section
/-! SUPPORT. The laws of the display controller: pixels of a plane built pixel by pixel, the toggle, and one turn of the draw loop. -/

namespace Sys2Proof.Machine

theorem width_pos (r : Resolution) : 0 < r.width := by cases r <;> decide

theorem height_pos (r : Resolution) : 0 < r.height := by cases r <;> decide

/-- Row-major: a pixel inside the screen is an element of the plane (R31). -/
theorem index_lt {w h x y : Nat} (hx : x < w) (hy : y < h) : y * w + x < w * h := by
  calc y * w + x < y * w + w := by omega
    _ = (y + 1) * w := by ring
    _ ≤ h * w := Nat.mul_le_mul_right w hy
    _ = w * h := Nat.mul_comm h w

/-- Row-major: different pixels are different elements (R31). -/
theorem index_inj {w x y x' y' : Nat} (hx : x < w) (hx' : x' < w) (h : y * w + x = y' * w + x') : x = x' ∧ y = y' := by
  have hw : 0 < w := by omega
  have e1 : (y * w + x) % w = x := by rw [Nat.add_comm, Nat.add_mul_mod_self_right, Nat.mod_eq_of_lt hx]
  have e2 : (y' * w + x') % w = x' := by rw [Nat.add_comm, Nat.add_mul_mod_self_right, Nat.mod_eq_of_lt hx']
  have e3 : (y * w + x) / w = y := by rw [Nat.add_comm, Nat.add_mul_div_right _ _ hw, Nat.div_eq_of_lt hx, Nat.zero_add]
  have e4 : (y' * w + x') / w = y' := by rw [Nat.add_comm, Nat.add_mul_div_right _ _ hw, Nat.div_eq_of_lt hx', Nat.zero_add]
  rw [h] at e1 e3
  exact ⟨e1.symm.trans e2, e3.symm.trans e4⟩

@[simp] theorem planeOf_length (w h : Nat) (f : Nat → Nat → Bool) : (planeOf w h f).length = w * h := by simp [planeOf]

/-- A plane built pixel by pixel has those pixels. -/
theorem pixelAt_planeOf {w h x y : Nat} (f : Nat → Nat → Bool) (hx : x < w) (hy : y < h) : pixelAt w (planeOf w h f) x y = f x y := by
  have hw : 0 < w := by omega
  have h1 : (y * w + x) % w = x := by rw [Nat.add_comm, Nat.add_mul_mod_self_right, Nat.mod_eq_of_lt hx]
  have h2 : (y * w + x) / w = y := by rw [Nat.add_comm, Nat.add_mul_div_right _ _ hw, Nat.div_eq_of_lt hx, Nat.zero_add]
  simp [pixelAt, planeOf, List.getD_eq_getElem?_getD, index_lt hx hy, h1, h2]

/-- Two planes of the resolution's size with the same pixels are the same plane. -/
theorem plane_ext {w h : Nat} {p q : List Bool} (hp : p.length = w * h) (hq : q.length = w * h)
    (hpq : ∀ x y, x < w → y < h → pixelAt w p x y = pixelAt w q x y) : p = q := by
  apply List.ext_getElem (hp.trans hq.symm)
  intro k hk hk'
  have hwh : k < w * h := hp ▸ hk
  have hw : 0 < w := Nat.pos_of_mul_pos_right (by omega : 0 < w * h)
  have hy : k / w < h := Nat.div_lt_of_lt_mul hwh
  have := hpq (k % w) (k / w) (Nat.mod_lt _ hw) hy
  have e : k / w * w + k % w = k := by rw [Nat.mul_comm]; exact Nat.div_add_mod k w
  simpa [pixelAt, e, List.getD_eq_getElem?_getD, List.getElem?_eq_getElem hk, List.getElem?_eq_getElem hk'] using this

@[simp] theorem blankPlane_length (r : Resolution) : (blankPlane r).length = r.pixels := by simp [blankPlane]

theorem pixelAt_blankPlane (r : Resolution) (w x y : Nat) : pixelAt w (blankPlane r) x y = false := by
  simp only [pixelAt, blankPlane, List.getD_eq_getElem?_getD, List.getElem?_replicate]
  split <;> rfl

@[simp] theorem setPlanePixel_length (w : Nat) (p : List Bool) (x y : Nat) : (setPlanePixel w p x y).1.length = p.length := by
  simp [setPlanePixel]

/-- The toggle changes one pixel of the screen and no other (R191). -/
theorem pixelAt_setPlanePixel {w h x y : Nat} {p : List Bool} (hp : p.length = w * h) (hx : x < w) (hy : y < h)
    {x' y' : Nat} (hx' : x' < w) :
    pixelAt w (setPlanePixel w p x y).1 x' y' = if x' = x ∧ y' = y then !pixelAt w p x y else pixelAt w p x' y' := by
  have hk : y * w + x < p.length := hp ▸ index_lt hx hy
  simp only [setPlanePixel, pixelAt, List.getD_eq_getElem?_getD, List.getElem?_set]
  by_cases he : y * w + x = y' * w + x'
  · obtain ⟨rfl, rfl⟩ := index_inj hx hx' he
    simp [hk]
  · have : ¬(x' = x ∧ y' = y) := by rintro ⟨rfl, rfl⟩; exact he rfl
    simp [he, this]

@[simp] theorem drawCell_length (m : Memory) (clip : Bool) (res : Resolution) (ptr n x0 y0 : Nat) (acc : List Bool × Bool)
    (rc : Nat × Nat) : (drawCell m clip res ptr n x0 y0 acc rc).1.length = acc.1.length := by
  unfold drawCell
  split
  · split <;> simp
  · rfl

theorem drawCells_length (m : Memory) (clip : Bool) (res : Resolution) (ptr n x0 y0 : Nat) (cells : List (Nat × Nat))
    (acc : List Bool × Bool) : (cells.foldl (drawCell m clip res ptr n x0 y0) acc).1.length = acc.1.length := by
  induction cells generalizing acc with
  | nil => rfl
  | cons c cells ih => rw [List.foldl_cons, ih, drawCell_length]

/-- A draw keeps the plane's size. -/
@[simp] theorem drawPlane_length (m : Memory) (clip : Bool) (res : Resolution) (ptr n x0 y0 : Nat) (p : List Bool) :
    (drawPlane m clip res ptr n x0 y0 p).1.length = p.length := drawCells_length ..

/-- The cells of a sprite are all pairs of a row and a column (R209). -/
theorem mem_spriteCells (n r c : Nat) : (r, c) ∈ spriteCells n ↔ r < spriteRows n ∧ c < 8 * spriteBytesPerRow n := by
  simp [spriteCells]

/-- A sprite's target is on the screen. -/
theorem spriteTarget_on_screen {clip : Bool} {res : Resolution} {x0 y0 r c px py : Nat}
    (h : spriteTarget clip res x0 y0 r c = some (px, py)) : px < res.width ∧ py < res.height := by
  unfold spriteTarget at h
  split at h
  · exact absurd h (by simp)
  · simp only [Option.some.injEq, Prod.mk.injEq] at h
    exact ⟨h.1 ▸ Nat.mod_lt _ (width_pos res), h.2 ▸ Nat.mod_lt _ (height_pos res)⟩

/-- When a sprite's pixel is dropped and where it lands otherwise (R209). -/
theorem spriteTarget_eq_some {clip : Bool} {res : Resolution} {x0 y0 r c px py : Nat} :
    spriteTarget clip res x0 y0 r c = some (px, py) ↔
      (clip = true → x0 + c < res.width ∧ y0 + r < res.height) ∧ (x0 + c) % res.width = px ∧ (y0 + r) % res.height = py := by
  unfold spriteTarget
  cases clip
  · simp
  · by_cases h : x0 + c < res.width ∧ y0 + r < res.height
    · have h1 : ¬ res.width ≤ x0 + c := by omega
      have h2 : ¬ res.height ≤ y0 + r := by omega
      simp [h1, h2]
      omega
    · have : res.width ≤ x0 + c ∨ res.height ≤ y0 + r := by omega
      rcases this with h1 | h1 <;> simp [h1]

/-- Within one draw every screen pixel is the target of at most one sprite pixel: the sprite is at most 16 by 16 and the screen at
least 64 by 32 (R209, corner case d). -/
theorem spriteTarget_inj {clip : Bool} {res : Resolution} {n x0 y0 r c r' c' : Nat} {t : Nat × Nat} (hn : n < 16)
    (hrc : (r, c) ∈ spriteCells n) (hrc' : (r', c') ∈ spriteCells n)
    (h : spriteTarget clip res x0 y0 r c = some t) (h' : spriteTarget clip res x0 y0 r' c' = some t) : r = r' ∧ c = c' := by
  obtain ⟨px, py⟩ := t
  rw [mem_spriteCells] at hrc hrc'
  rw [spriteTarget_eq_some] at h h'
  have hrows : spriteRows n ≤ 16 := by unfold spriteRows; split <;> omega
  have hcols : 8 * spriteBytesPerRow n ≤ 16 := by unfold spriteBytesPerRow; split <;> omega
  cases res <;> simp only [Resolution.width, Resolution.height] at h h' <;> omega

end Sys2Proof.Machine
end

