-- ==== Sys2Proof/Laws/Cycle.lean ====
section
/-! SUPPORT. What a step can do, said once: the cases of the host's event, of the CPU's Step and of the fetch; and that every
instruction answers a next state. -/

namespace Sys2Proof.Machine

/-- An answer of the range check is a next state when what follows it is. -/
theorem withRange_answers {a n : Nat} {s : State} {k : Result} (h : ∃ t, k = .next t) : ∃ t, withRange a n s k = .next t := by
  rcases withRange_cases a n s k with ⟨-, e⟩ | ⟨-, e⟩
  · rw [e]; exact h
  · exact ⟨_, e⟩

theorem skipIf_answers (c : Bool) (s : State) : ∃ t, skipIf c s = .next t := by
  cases c
  · exact ⟨s, rfl⟩
  · rcases skip_cases s with ⟨-, -, e⟩ | ⟨-, -, e⟩ | ⟨-, e⟩ <;> exact ⟨_, e⟩

/-- Every instruction answers a next state in every state: an abort is one too (R113, R241). -/
theorem exec_answers (i : Instr) (s : State) : ∃ t, exec i s = .next t := by
  cases i with
  | seImm x nn => exact skipIf_answers _ s
  | sneImm x nn => exact skipIf_answers _ s
  | seReg x y => exact skipIf_answers _ s
  | sneReg x y => exact skipIf_answers _ s
  | skp x =>
    rcases keyIndex_cases (s.reg x) with ⟨-, e⟩ | ⟨k, -, e⟩
    · exact ⟨_, by simp [exec, execSkp, e]; rfl⟩
    · simpa [exec, execSkp, e] using skipIf_answers _ s
  | sknp x =>
    rcases keyIndex_cases (s.reg x) with ⟨-, e⟩ | ⟨k, -, e⟩
    · exact ⟨_, by simp [exec, execSknp, e]; rfl⟩
    · simpa [exec, execSknp, e] using skipIf_answers _ s
  | ret =>
    rcases pop_cases s with ⟨-, e⟩ | ⟨rest, w, -, e⟩
    · exact ⟨_, by simp [exec, execRet, e]; rfl⟩
    · exact ⟨_, by simp [exec, execRet, e]; rfl⟩
  | bcd x => exact withRange_answers ⟨_, rfl⟩
  | ldMemVx x => exact withRange_answers ⟨_, rfl⟩
  | ldVxMem x => exact withRange_answers ⟨_, rfl⟩
  | save x y => exact withRange_answers ⟨_, rfl⟩
  | load x y => exact withRange_answers ⟨_, rfl⟩
  | drw x y n => exact withRange_answers ⟨_, rfl⟩
  | audio u => exact withRange_answers ⟨_, rfl⟩
  | _ => exact ⟨_, rfl⟩

/-! ### The CPU's Step (R113) -/

theorem cpuStep_of_not_live {s : State} (h : s.live = false) : s.cpuStep = .next s := by simp [State.cpuStep, h]

theorem cpuStep_of_waiting {s : State} {w : KeyWait} (hl : s.live = true) (hw : s.waiting = some w) :
    s.cpuStep = .next (s.keyWaitPoll w) := by simp [State.cpuStep, hl, hw]

theorem cpuStep_of_fetching {s : State} (hl : s.live = true) (hw : s.waiting = none) : s.cpuStep = s.fetchExecute := by
  simp [State.cpuStep, hl, hw]

/-- All a Step of the CPU can be: nothing, a key-wait poll, or the fetch of an instruction (R113). -/
theorem cpuStep_cases (s : State) :
    (s.live = false ∧ s.cpuStep = .next s) ∨
    (∃ w, s.live = true ∧ s.waiting = some w ∧ s.cpuStep = .next (s.keyWaitPoll w)) ∨
    (s.live = true ∧ s.waiting = none ∧ s.cpuStep = s.fetchExecute) := by
  cases hl : s.live
  · exact .inl ⟨rfl, cpuStep_of_not_live hl⟩
  · cases hw : s.waiting with
    | some w => exact .inr (.inl ⟨w, rfl, rfl, cpuStep_of_waiting hl hw⟩)
    | none => exact .inr (.inr ⟨rfl, rfl, cpuStep_of_fetching hl hw⟩)

/-- All a fetch can end in: an instruction, an unknown opcode, or an abort (R116, R119, R171). -/
theorem fetchExecute_cases (s : State) :
    (∃ i rest, decode (s.mem.window s.pc.toNat 4) = .ok i rest ∧ s.fetchExecute = exec i s.advance) ∨
    (∃ op, decode (s.mem.window s.pc.toNat 4) = .reject (.unknownOpcode op) ∧ s.fetchExecute = execUnknown op s.advance) ∨
    (decode (s.mem.window s.pc.toNat 4) = .reject .noOpcodeWord ∧ s.fetchExecute = abort .memoryOutOfRange s) ∨
    (decode (s.mem.window s.pc.toNat 4) = .reject .noOperandWord ∧ s.fetchExecute = abort .memoryOutOfRange s.advance) := by
  unfold State.fetchExecute
  rcases h : decode (s.mem.window s.pc.toNat 4) with ⟨i, rest⟩ | (_ | _ | op) <;> simp

/-- There is no opcode word exactly where fewer than two bytes are left. -/
theorem decode_eq_noOpcodeWord (bs : List Byte) : decode bs = .reject .noOpcodeWord ↔ bs.length < 2 := by
  unfold decode
  split
  · split
    · split <;> simp
    · split <;> simp
  · rename_i h
    match bs, h with
    | [], _ => simp
    | [_], _ => simp
    | b0 :: b1 :: rest, h => exact absurd rfl (h b0 b1 rest)

/-- A fetch whose opcode word exists found pc at most 4094 (R116). -/
theorem pc_le_of_decode {s : State} (h : decode (s.mem.window s.pc.toNat 4) ≠ .reject .noOpcodeWord) : s.pc.toNat ≤ 4094 := by
  rw [ne_eq, decode_eq_noOpcodeWord, Memory.window_length] at h
  omega

/-- The bytes that stand at pc are the front of what the fetch sees. -/
theorem window_of_holdsAtPc {s : State} {bs : List Byte} (h : s.holdsAtPc bs) (hl : bs.length ≤ 4) :
    ∃ rest, s.mem.window s.pc.toNat 4 = bs ++ rest := by
  refine ⟨(s.mem.window s.pc.toNat 4).drop bs.length, ?_⟩
  obtain ⟨hr, hb⟩ := h
  simp only [Config.memSize] at hr
  have hlen := Memory.window_length s.mem s.pc.toNat 4
  apply List.ext_getElem
  · simp only [List.length_append, List.length_drop]; omega
  · intro k hk hk'
    rw [Memory.window_getElem]
    by_cases hkb : k < bs.length
    · rw [List.getElem_append_left hkb, hb k hkb]
    · rw [List.getElem_append_right (by omega)]
      simp only [List.getElem_drop, Memory.window_getElem]
      congr 1; omega

/-! ### The step -/

/-- The step performs the host's event on the state with an empty notification list, then takes the host's next input. -/
theorem step_eq (s : State) : step s = thenNextInput (s.clearOut.react s.inp.event) := by
  unfold step State.hostStep
  cases s.clearOut.react s.inp.event <;> rfl

/-- All a step can be: the host's event, then the host's next input (R110, R279). -/
theorem step_cases {s t : State} (h : step s = .next t) : ∃ u, s.clearOut.react s.inp.event = .next u ∧ t = u.nextInput := by
  rw [step_eq] at h
  cases hr : s.clearOut.react s.inp.event with
  | next u => rw [hr] at h; exact ⟨u, rfl, by cases h; rfl⟩
  | fault r => rw [hr] at h; cases h
  | refused r => rw [hr] at h; cases h

theorem step_of_event {s : State} {e : HostEvent} (h : s.inp.event = e) : step s = thenNextInput (s.clearOut.react e) := by
  rw [step_eq, h]

/-- A step that fetches runs what the fetch decodes. -/
theorem step_of_fetching {s : State} (h : s.fetching) : step s = thenNextInput s.clearOut.fetchExecute := by
  obtain ⟨he, hl, hw⟩ := h
  rw [step_of_event he]
  exact congrArg thenNextInput (cpuStep_of_fetching (s := s.clearOut) hl hw)

theorem live_iff (s : State) : s.live = true ↔ s.running = true ∧ s.halt = none := by
  simp [State.live, Option.isNone_iff_eq_none]

end Sys2Proof.Machine
end

