-- ==== Sys2Proof/Laws/PerInstr.lean ====
section
/-! SUPPORT. One lemma per constructor about the instruction as syntax: its encoding is as many bytes as the spec gives it (R90). -/

namespace Sys2Proof.Laws.EncodedLength

/-- The encoding of an instruction has the length of R90: four bytes for F000, two for every other. -/
def Statement (i : Instr) : Prop := (encode i).length = i.lengthBytes

theorem nop : Statement .nop := rfl
theorem scd (n : Nat) : Statement (.scd n) := rfl
theorem scu (n : Nat) : Statement (.scu n) := rfl
theorem cls : Statement .cls := rfl
theorem ret : Statement .ret := rfl
theorem scr : Statement .scr := rfl
theorem scl : Statement .scl := rfl
theorem exit : Statement .exit := rfl
theorem low : Statement .low := rfl
theorem high : Statement .high := rfl
theorem jp (nnn : Addr12) : Statement (.jp nnn) := rfl
theorem call (nnn : Addr12) : Statement (.call nnn) := rfl
theorem seImm (x : RegIx) (nn : Byte) : Statement (.seImm x nn) := rfl
theorem sneImm (x : RegIx) (nn : Byte) : Statement (.sneImm x nn) := rfl
theorem seReg (x y : RegIx) : Statement (.seReg x y) := rfl
theorem save (x y : RegIx) : Statement (.save x y) := rfl
theorem load (x y : RegIx) : Statement (.load x y) := rfl
theorem ldImm (x : RegIx) (nn : Byte) : Statement (.ldImm x nn) := rfl
theorem addImm (x : RegIx) (nn : Byte) : Statement (.addImm x nn) := rfl
theorem ldReg (x y : RegIx) : Statement (.ldReg x y) := rfl
theorem orReg (x y : RegIx) : Statement (.orReg x y) := rfl
theorem andReg (x y : RegIx) : Statement (.andReg x y) := rfl
theorem xorReg (x y : RegIx) : Statement (.xorReg x y) := rfl
theorem addReg (x y : RegIx) : Statement (.addReg x y) := rfl
theorem subReg (x y : RegIx) : Statement (.subReg x y) := rfl
theorem shr (x y : RegIx) : Statement (.shr x y) := rfl
theorem subn (x y : RegIx) : Statement (.subn x y) := rfl
theorem shl (x y : RegIx) : Statement (.shl x y) := rfl
theorem sneReg (x y : RegIx) : Statement (.sneReg x y) := rfl
theorem ldI (nnn : Addr12) : Statement (.ldI nnn) := rfl
theorem jpV0 (nnn : Addr12) : Statement (.jpV0 nnn) := rfl
theorem rnd (x : RegIx) (nn : Byte) : Statement (.rnd x nn) := rfl
theorem drw (x y : RegIx) (n : Nat) : Statement (.drw x y n) := rfl
theorem skp (x : RegIx) : Statement (.skp x) := rfl
theorem sknp (x : RegIx) : Statement (.sknp x) := rfl
theorem ldILong (nnnn : Word) : Statement (.ldILong nnnn) := rfl
theorem plane (mask : Nat) : Statement (.plane mask) := rfl
theorem audio (ignored : Nat) : Statement (.audio ignored) := rfl
theorem ldVxDt (x : RegIx) : Statement (.ldVxDt x) := rfl
theorem ldVxK (x : RegIx) : Statement (.ldVxK x) := rfl
theorem ldDtVx (x : RegIx) : Statement (.ldDtVx x) := rfl
theorem ldStVx (x : RegIx) : Statement (.ldStVx x) := rfl
theorem addI (x : RegIx) : Statement (.addI x) := rfl
theorem ldF (x : RegIx) : Statement (.ldF x) := rfl
theorem ldHf (x : RegIx) : Statement (.ldHf x) := rfl
theorem bcd (x : RegIx) : Statement (.bcd x) := rfl
theorem pitch (x : RegIx) : Statement (.pitch x) := rfl
theorem ldMemVx (x : RegIx) : Statement (.ldMemVx x) := rfl
theorem ldVxMem (x : RegIx) : Statement (.ldVxMem x) := rfl
theorem ldRVx (x : RegIx) : Statement (.ldRVx x) := rfl
theorem ldVxR (x : RegIx) : Statement (.ldVxR x) := rfl

end Sys2Proof.Laws.EncodedLength
end

