-- ==== Sys2Proof/Tests/Slice0.lean ====
section
/-! SUPPORT. The model's own tests. Expected values are the vectors of spec/95_test_vectors.md (their ids stand in the comments) or the
encodings of R93; then one witness for the hypotheses of each statement that has some. -/

namespace Sys2Proof.Tests

open Sys2Proof.Machine

/-! ### Helpers -/

/-- The start state of 95_test_vectors.md section 1: after a valid LoadRom, the words at 0x200. -/
def atStart (ws : List Word) : State :=
  { State.reset with running := true, mem := Memory.setBytes [] 0x200 (bytesOfWords ws) }

/-- The same with registers set. -/
def regsSet (s : State) (l : List (RegIx × Byte)) : State := l.foldl (fun t p => t.setReg p.1 p.2) s

/-- The same with I and bytes at I. -/
def dataSet (s : State) (i : Word) (bs : List Byte) : State := { s with i := i, mem := s.mem.setBytes i.toNat bs }

/-- All quirks clear. -/
def noQuirks : Quirks := ⟨false, false, false, false, false, false⟩

def quirksSet (s : State) (q : Quirks) : State := { s with inp := { s.inp with quirks := q } }

def keysSet (s : State) (ks : List (Fin 16)) : State :=
  { s with inp := { s.inp with keys := Vector.ofFn fun k => decide (k ∈ ks) } }

def eventSet (s : State) (e : HostEvent) : State := { s with inp := { s.inp with event := e } }

/-- Set pixels of a plane of width `w`. -/
def pixelsSet (w : Nat) (p : List Bool) (l : List (Nat × Nat)) : List Bool := l.foldl (fun q c => q.set (c.2 * w + c.1) true) p

/-- Pixels of a plane, as the tests probe them. -/
def probe (w : Nat) (p : List Bool) (l : List (Nat × Nat)) : List Bool := l.map fun c => pixelAt w p c.1 c.2

/-- What one step leaves, seen through `f`. -/
def afterStep {α : Type} (s : State) (f : State → α) : Option α :=
  match step s with
  | .next t => some (f t)
  | .fault _ => none
  | .refused _ => none

/-- What one instruction leaves, seen through `f`. -/
def afterExec {α : Type} (i : Instr) (s : State) (f : State → α) : Option α :=
  match exec i s with
  | .next t => some (f t)
  | .fault _ => none
  | .refused _ => none

/-- What a step leaves of pc and the reason of an abort. -/
def pcHalt (t : State) : Word × Option AbortReason := (t.pc, t.halt)

/-- The bytes at some addresses. -/
def bytesAt (t : State) (l : List Nat) : List Byte := l.map t.mem.get

/-! ### WellFormed refuses ill-formed terms -/

theorem test_wf_scd : Instr.wellFormed (.scd 16) = false := by decide
theorem test_wf_scu : Instr.wellFormed (.scu 16) = false := by decide
theorem test_wf_drw : Instr.wellFormed (.drw 0 0 16) = false := by decide
theorem test_wf_plane : Instr.wellFormed (.plane 16) = false := by decide
theorem test_wf_audio : Instr.wellFormed (.audio 16) = false := by decide

/-! ### Every row's word, written out from R93's pattern -/

theorem test_decode_rows_1_to_10 :
    [0x0000, 0x00CA, 0x00D5, 0x00E0, 0x00EE, 0x00FB, 0x00FC, 0x00FD, 0x00FE, 0x00FF].map (decodeTableWord 16) =
      [some .nop, some (.scd 10), some (.scu 5), some .cls, some .ret, some .scr, some .scl, some .exit, some .low, some .high] := by
  decide

theorem test_decode_rows_11_to_19 :
    [0x1ABC, 0x2ABC, 0x3A42, 0x4A42, 0x5120, 0x5132, 0x5313, 0x6FAB, 0x7F01].map (decodeTableWord 16) =
      [some (.jp 0xABC), some (.call 0xABC), some (.seImm 10 0x42), some (.sneImm 10 0x42), some (.seReg 1 2), some (.save 1 3),
       some (.load 3 1), some (.ldImm 15 0xAB), some (.addImm 15 0x01)] := by
  decide

theorem test_decode_rows_20_to_29 :
    [0x8210, 0x8F11, 0x8012, 0x8A53, 0x8F14, 0x8015, 0x8F16, 0x8127, 0x80FE, 0x9120].map (decodeTableWord 16) =
      [some (.ldReg 2 1), some (.orReg 15 1), some (.andReg 0 1), some (.xorReg 10 5), some (.addReg 15 1), some (.subReg 0 1),
       some (.shr 15 1), some (.subn 1 2), some (.shl 0 15), some (.sneReg 1 2)] := by
  decide

theorem test_decode_rows_30_to_35 :
    [0xAFFF, 0xB210, 0xC30F, 0xDF01, 0xD12A, 0xE49E, 0xEFA1].map (decodeTableWord 16) =
      [some (.ldI 0xFFF), some (.jpV0 0x210), some (.rnd 3 0x0F), some (.drw 15 0 1), some (.drw 1 2 10), some (.skp 4),
       some (.sknp 15)] := by
  decide

/-- The operand word of F000 is big-endian in memory, and bits 31 to 16 of the table's numbering (R63, R171). -/
theorem test_decode_row_36 :
    decodeTableWord 32 0x1234F000 = some (.ldILong 0x1234) ∧ decodeTableWord 16 0xF000 = some (.ldILong 0) ∧
      decode [0xF0, 0x00, 0x12, 0x34, 0x56] = .ok (.ldILong 0x1234) [0x56] := by
  decide

theorem test_decode_rows_37_to_51 :
    [0xF601, 0xF702, 0xF307, 0xF10A, 0xF315, 0xF218, 0xF21E, 0xFA29, 0xF130, 0xFB33, 0xFC3A, 0xF255, 0xFD65, 0xF175, 0xFE85].map
      (decodeTableWord 16) =
      [some (.plane 6), some (.audio 7), some (.ldVxDt 3), some (.ldVxK 1), some (.ldDtVx 3), some (.ldStVx 2), some (.addI 2),
       some (.ldF 10), some (.ldHf 1), some (.bcd 11), some (.pitch 12), some (.ldMemVx 2), some (.ldVxMem 13), some (.ldRVx 1),
       some (.ldVxR 14)] := by
  decide

/-- Words of R95's list are no instruction (CY2 to CY8). -/
theorem test_decode_unknown :
    [0x0001, 0x00BF, 0x00E1, 0x5001, 0x8008, 0x9001, 0xE09F, 0xF100, 0xF003, 0xFFFF].map (decodeTableWord 16) =
      List.replicate 10 none := by
  decide

theorem test_decode_too_short :
    decode [0x60] = .reject .noOpcodeWord ∧ decode [0xF0, 0x00, 0x12] = .reject .noOperandWord := by decide

/-! ### Execution cycle (section 3.1) -/

/-- CY1. -/
theorem test_nop : afterStep (atStart [0x0000]) (fun t => (t.pc, t.out)) = some (0x202, []) := by decide
/-- CY3. -/
theorem test_unknown :
    afterStep (regsSet (atStart [0x8008]) [(0, 5)]) (fun t => (t.pc, t.reg 0, t.reg 15, t.out)) =
      some (0x202, 5, 0, [.unknownOpcode 0x8008]) := by decide
/-- CY9. -/
theorem test_exit :
    afterStep (atStart [0x00FD]) (fun t => (t.pc, t.exitReq, t.out)) = some (0x200, true, [.exitRequested]) := by decide
/-- CY10. -/
theorem test_fetch_last_word :
    afterStep { atStart [] with pc := 0xFFE, mem := Memory.setBytes [] 0xFFE [0x6A, 0x55] } (fun t => (t.reg 10, t.pc)) =
      some (0x55, 0x1000) := by decide
/-- CY11. -/
theorem test_fetch_beyond : afterStep { atStart [] with pc := 0xFFF } pcHalt = some (0xFFF, some .memoryOutOfRange) := by decide
/-- CY12: an odd pc is fetched from as is. -/
theorem test_fetch_odd :
    afterStep { atStart [] with pc := 0x201, mem := Memory.setBytes [] 0x201 [0x6A, 0x55] } (fun t => (t.reg 10, t.pc)) =
      some (0x55, 0x203) := by decide
/-- CY13. -/
theorem test_not_running :
    afterStep { atStart [0x6001] with running := false } (fun t => (t.reg 0, t.pc, t.out)) = some (0, 0x200, []) := by decide
/-- CY14. -/
theorem test_halted :
    afterStep { atStart [0x6001] with halt := some .stackUnderflow } (fun t => (t.reg 0, t.pc, t.out)) = some (0, 0x200, []) := by
  decide

/-! ### Control transfer (section 3.2) -/

/-- CF1. -/
theorem test_ret :
    afterStep { atStart [0x00EE] with stack := [0x206, 0x30A] } (fun t => (t.pc, t.stack)) = some (0x30A, [0x206]) := by decide
/-- CF2. -/
theorem test_ret_empty : afterStep (atStart [0x00EE]) (·.halt) = some (some .stackUnderflow) := by decide
/-- CF3. -/
theorem test_jp : afterStep (atStart [0x1FFF]) (·.pc) = some 0xFFF := by decide
/-- CF4. -/
theorem test_call :
    afterStep { atStart [0x2ABC] with stack := [0x111] } (fun t => (t.pc, t.stack)) = some (0xABC, [0x111, 0x202]) := by decide
/-- CF5q. -/
theorem test_jpV0_quirk :
    afterStep (quirksSet (regsSet (atStart [0xB210]) [(0, 4), (2, 0x10)]) { noQuirks with jumpBits := true }) (·.pc) = some 0x220 := by
  decide
/-- CF6: the sum is not reduced to 12 bits. -/
theorem test_jpV0 : afterStep (regsSet (atStart [0xBFFF]) [(0, 0xFF)]) (·.pc) = some 0x10FE := by decide
/-- CF9. -/
theorem test_seImm_long : afterStep (regsSet (atStart [0x3A42, 0xF000, 0x1234]) [(10, 0x42)]) (·.pc) = some 0x206 := by decide
/-- CF10. -/
theorem test_seImm_short : afterStep (regsSet (atStart [0x3A42, 0xF001]) [(10, 0x42)]) (·.pc) = some 0x204 := by decide
/-- CF11. -/
theorem test_sneImm : afterStep (regsSet (atStart [0x4A42, 0xF000]) [(10, 0x41)]) (·.pc) = some 0x206 := by decide
/-- CF12. -/
theorem test_sneImm_equal : afterStep (regsSet (atStart [0x4A42, 0xF000]) [(10, 0x42)]) (·.pc) = some 0x202 := by decide
/-- CF13. -/
theorem test_seReg : afterStep (atStart [0x5330, 0xF000]) (·.pc) = some 0x206 := by decide
/-- CF14. -/
theorem test_sneReg_same : afterStep (atStart [0x9330, 0xF000]) (·.pc) = some 0x202 := by decide
/-- CF15. -/
theorem test_sneReg : afterStep (regsSet (atStart [0x9120, 0xF000]) [(1, 1), (2, 2)]) (·.pc) = some 0x206 := by decide
/-- CF16. -/
theorem test_skp : afterStep (keysSet (regsSet (atStart [0xE49E, 0xF000]) [(4, 0xC)]) [0xC]) (·.pc) = some 0x206 := by decide
/-- CF20. -/
theorem test_skp_index : afterStep (regsSet (atStart [0xE49E]) [(4, 0x10)]) (·.halt) = some (some .keyIndexOutOfRange) := by decide
/-- CF18. -/
theorem test_sknp : afterStep (regsSet (atStart [0xE4A1, 0x1220]) [(4, 0xC)]) (·.pc) = some 0x204 := by decide
/-- CF19. -/
theorem test_sknp_pressed : afterStep (keysSet (regsSet (atStart [0xE4A1, 0x1220]) [(4, 0xC)]) [0xC]) (·.pc) = some 0x202 := by decide
/-- CF22. -/
theorem test_skip_beyond :
    afterStep { atStart [] with pc := 0xFFE, mem := Memory.setBytes [] 0xFFE [0x30, 0x00] } (·.halt) =
      some (some .memoryOutOfRange) := by decide
/-- CF23. -/
theorem test_skip_untaken :
    afterStep { atStart [] with pc := 0xFFE, mem := Memory.setBytes [] 0xFFE [0x30, 0x01] } pcHalt = some (0x1000, none) := by decide
/-- CF24. -/
theorem test_skip_largest_pc :
    afterStep { atStart [] with pc := 0xFFC, mem := Memory.setBytes [] 0xFFC [0x30, 0x00, 0xF0, 0x00] } (·.pc) = some 0x1002 := by
  decide

/-! ### Register file and ALU (section 3.3) -/

/-- What a step leaves in V0 and VF. -/
def v0vF (t : State) : Byte × Byte := (t.reg 0, t.reg 15)

/-- AL1. -/
theorem test_ldImm : afterStep (atStart [0x6FAB]) (·.reg 15) = some 0xAB := by decide
/-- AL2. -/
theorem test_addImm : afterStep (regsSet (atStart [0x7002]) [(0, 0xFF)]) v0vF = some (0x01, 0) := by decide
/-- AL3. -/
theorem test_addImm_vf : afterStep (regsSet (atStart [0x7F01]) [(15, 0xFF)]) (·.reg 15) = some 0x00 := by decide
/-- AL4. -/
theorem test_ldReg : afterStep (regsSet (atStart [0x8210]) [(1, 0x33)]) (fun t => (t.reg 2, t.reg 1)) = some (0x33, 0x33) := by decide
/-- AL5. -/
theorem test_or_quirk :
    afterStep (quirksSet (regsSet (atStart [0x8011]) [(0, 0x0F), (1, 0xF0), (15, 1)]) { noQuirks with vfZero := true }) v0vF =
      some (0xFF, 0) := by decide
/-- AL6b. -/
theorem test_or_vf : afterStep (regsSet (atStart [0x8F11]) [(1, 0xF0), (15, 1)]) (·.reg 15) = some 0xF1 := by decide
/-- AL7. -/
theorem test_and : afterStep (regsSet (atStart [0x8012]) [(0, 0x3C), (1, 0x0F)]) (·.reg 0) = some 0x0C := by decide
/-- AL8. -/
theorem test_xor : afterStep (regsSet (atStart [0x8333]) [(3, 0x5A)]) (·.reg 3) = some 0x00 := by decide
/-- AL10: a sum of exactly 255 has no carry. -/
theorem test_add_255 : afterStep (regsSet (atStart [0x8014]) [(0, 0xFF), (15, 1)]) v0vF = some (0xFF, 0) := by decide
/-- AL13. -/
theorem test_add_vf : afterStep (regsSet (atStart [0x8F14]) [(15, 0xF0), (1, 0x20)]) (·.reg 15) = some 1 := by decide
/-- AL15. -/
theorem test_sub : afterStep (regsSet (atStart [0x8015]) [(0, 0x10), (1, 0x20)]) v0vF = some (0xF0, 0) := by decide
/-- AL17: no borrow at equality. -/
theorem test_sub_equal : afterStep (regsSet (atStart [0x8015]) [(0, 0x33), (1, 0x33)]) v0vF = some (0x00, 1) := by decide
/-- AL19. -/
theorem test_subn : afterStep (regsSet (atStart [0x8017]) [(0, 0x10), (1, 0x20)]) v0vF = some (0x10, 1) := by decide
/-- AL20. -/
theorem test_subn_borrow : afterStep (regsSet (atStart [0x8017]) [(0, 0x20), (1, 0x10)]) v0vF = some (0xF0, 0) := by decide
/-- AL21. -/
theorem test_shr_quirk :
    afterStep (quirksSet (regsSet (atStart [0x8016]) [(0, 5), (1, 8)]) { noQuirks with vxShiftedDirectly := true }) v0vF =
      some (2, 1) := by decide
/-- AL21b. -/
theorem test_shr : afterStep (regsSet (atStart [0x8016]) [(0, 5), (1, 8)]) v0vF = some (4, 0) := by decide
/-- AL22. -/
theorem test_shl_quirk :
    afterStep (quirksSet (regsSet (atStart [0x801E]) [(0, 0x81), (1, 0x40)]) { noQuirks with vxShiftedDirectly := true }) v0vF =
      some (0x02, 1) := by decide
/-- AL22b. -/
theorem test_shl : afterStep (regsSet (atStart [0x801E]) [(0, 0x81), (1, 0x40)]) v0vF = some (0x80, 0) := by decide
/-- AL25. -/
theorem test_rnd :
    afterStep { atStart [0xC30F] with inp := { State.reset.inp with randomByte := 0xA7 } } (·.reg 3) = some 0x07 := by decide

/-! ### Index register, loads and stores, flag slot (section 3.4) -/

/-- IM1. -/
theorem test_ldI : afterStep (atStart [0xAFFF]) (·.i) = some 0x0FFF := by decide
/-- IM2. -/
theorem test_ldILong : afterStep (atStart [0xF000, 0x1234]) (fun t => (t.i, t.pc)) = some (0x1234, 0x204) := by decide
/-- IM4. -/
theorem test_ldILong_beyond :
    afterStep { atStart [] with pc := 0xFFE, mem := Memory.setBytes [] 0xFFE [0xF0, 0x00] } (·.halt) =
      some (some .memoryOutOfRange) := by decide
/-- IM5. -/
theorem test_addI :
    afterStep { regsSet (atStart [0xF21E]) [(2, 1), (15, 7)] with i := 0x0FFF } (fun t => (t.i, t.reg 15)) = some (0x1000, 7) := by
  decide
/-- IM6. -/
theorem test_addI_wraps : afterStep { regsSet (atStart [0xF21E]) [(2, 2)] with i := 0xFFFF } (·.i) = some 0x0001 := by decide
/-- IM8: no masking. -/
theorem test_ldF : afterStep (regsSet (atStart [0xF129]) [(1, 0xFF)]) (·.i) = some 0x04FB := by decide
/-- IM9, whatever base and stride are, where the sum fits. -/
theorem test_ldHf (h : Config.bigFontBase.toNat + 3 * Config.bigFontStride < 65536) :
    afterStep (regsSet (atStart [0xF130]) [(1, 0x13)]) (·.i) =
      some (BitVec.ofNat 16 (Config.bigFontBase.toNat + 3 * Config.bigFontStride)) := congrArg some (if_pos h)
/-- IM12. -/
theorem test_bcd :
    afterStep (dataSet (regsSet (atStart [0xF033]) [(0, 7)]) 0x300 [9, 9, 9]) (fun t => bytesAt t [0x300, 0x301, 0x302]) =
      some [0, 0, 7] := by decide
/-- IM14: the last legal I. -/
theorem test_bcd_last :
    afterStep (dataSet (regsSet (atStart [0xF033]) [(0, 129)]) 0xFFD []) (fun t => bytesAt t [0xFFD, 0xFFE, 0xFFF]) =
      some [1, 2, 9] := by decide
/-- IM16q. -/
theorem test_ldMemVx :
    afterStep (quirksSet (dataSet (regsSet (atStart [0xF255]) [(0, 0x11), (1, 0x22), (2, 0x33), (3, 0x44)]) 0x400 [])
      { noQuirks with iIncremented := true }) (fun t => (bytesAt t [0x400, 0x401, 0x402, 0x403], t.i)) =
      some ([0x11, 0x22, 0x33, 0x00], 0x403) := by decide
/-- IM18. -/
theorem test_ldMemVx_beyond : afterStep (dataSet (atStart [0xFF55]) 0xFF1 []) (·.halt) = some (some .memoryOutOfRange) := by decide
/-- IM19. -/
theorem test_ldVxMem :
    afterStep (dataSet (regsSet (atStart [0xF265]) [(3, 0x77)]) 0x300 [2, 3, 4, 5])
      (fun t => (t.reg 0, t.reg 1, t.reg 2, t.reg 3, t.i)) = some (2, 3, 4, 0x77, 0x300) := by decide
/-- IM20. -/
theorem test_ldVxMem_beyond : afterStep (dataSet (atStart [0xF065]) 0x1000 []) (·.halt) = some (some .memoryOutOfRange) := by decide
/-- IM21: the quirk is not consulted. -/
theorem test_save :
    afterStep (quirksSet (dataSet (regsSet (atStart [0x5132]) [(1, 0xA1), (2, 0xA2), (3, 0xA3)]) 0x500 [])
      { noQuirks with iIncremented := true }) (fun t => (bytesAt t [0x500, 0x501, 0x502], t.i)) =
      some ([0xA1, 0xA2, 0xA3], 0x500) := by decide
/-- IM22. -/
theorem test_save_descending :
    afterStep (dataSet (regsSet (atStart [0x5312]) [(1, 0xA1), (2, 0xA2), (3, 0xA3)]) 0x500 [])
      (fun t => bytesAt t [0x500, 0x501, 0x502]) = some [0xA3, 0xA2, 0xA1] := by decide
/-- IM24. -/
theorem test_load :
    afterStep (dataSet (atStart [0x5133]) 0x500 [0x0A, 0x0B, 0x0C]) (fun t => [t.reg 1, t.reg 2, t.reg 3]) =
      some [0x0A, 0x0B, 0x0C] := by decide
/-- IM25. -/
theorem test_load_descending :
    afterStep (dataSet (atStart [0x5313]) 0x500 [0x0A, 0x0B, 0x0C]) (fun t => [t.reg 1, t.reg 2, t.reg 3]) =
      some [0x0C, 0x0B, 0x0A] := by decide
/-- IM27. -/
theorem test_ldRVx :
    afterStep { regsSet (atStart [0xF175]) [(0, 9), (1, 8), (2, 7)] with rpl := Vector.replicate 16 3 }
      (fun t => [t.rpl.get 0, t.rpl.get 1, t.rpl.get 2, t.rpl.get 15]) = some [9, 8, 3, 3] := by decide
/-- IM28, the restore. -/
theorem test_ldVxR :
    afterStep { regsSet (atStart [0xF185]) [(2, 7)] with rpl := Vector.replicate 16 3 } (fun t => [t.reg 0, t.reg 1, t.reg 2]) =
      some [3, 3, 7] := by decide
/-- IM29: the font region is writable. -/
theorem test_font_region_writable : afterStep (regsSet (atStart [0xF055]) [(0, 0xEE)]) (·.mem.get 0) = some 0xEE :=
  congrArg some (Memory.get_set (atStart [0xF055]).mem 0 0xEE 0)

/-! ### Display (section 3.5) -/

/-- A machine with pixels set in both planes, Low. -/
def drawn (ws : List Word) (l0 l1 : List (Nat × Nat)) : State :=
  { atStart ws with plane0 := pixelsSet 64 resetPlane l0, plane1 := pixelsSet 64 resetPlane l1 }

/-- DS1. -/
theorem test_scd :
    afterStep (drawn [0x00C2] [(3, 0), (5, 30), (6, 29)] []) (fun t => probe 64 t.plane0 [(3, 0), (3, 2), (5, 30), (6, 29), (6, 31)]) =
      some [false, true, false, false, true] := by decide +kernel
/-- DS4. -/
theorem test_scu :
    afterStep (drawn [0x00D2] [(3, 0), (3, 5), (4, 2)] []) (fun t => probe 64 t.plane0 [(3, 0), (3, 3), (3, 5), (4, 0), (4, 2)]) =
      some [false, true, false, true, false] := by decide +kernel
/-- DS5. -/
theorem test_scr :
    afterStep (drawn [0x00FB] [(0, 1), (59, 1), (60, 1)] []) (fun t => probe 64 t.plane0 [(0, 1), (4, 1), (63, 1), (0, 2), (59, 1)]) =
      some [false, true, true, false, false] := by decide +kernel
/-- DS7: only the selected plane moves. -/
theorem test_scr_selected :
    afterStep { drawn [0x00FB] [(0, 0)] [(0, 0)] with activePlane := 2 }
      (fun t => probe 64 t.plane0 [(0, 0), (4, 0)] ++ probe 64 t.plane1 [(0, 0), (4, 0)]) =
      some [true, false, false, true] := by decide +kernel
/-- DS6. -/
theorem test_scl :
    afterStep (drawn [0x00FC] [(3, 1), (4, 1), (10, 1)] []) (fun t => probe 64 t.plane0 [(0, 1), (6, 1), (4, 1), (63, 0)]) =
      some [true, true, false, false] := by decide +kernel
/-- DS10. -/
theorem test_cls :
    afterStep { drawn [0x00E0] [(1, 1)] [(2, 2)] with activePlane := 2 }
      (fun t => probe 64 t.plane0 [(1, 1)] ++ probe 64 t.plane1 [(2, 2)]) = some [true, false] := by decide +kernel
/-- DS13. -/
theorem test_high :
    afterStep { drawn [0x00FF] [(1, 1)] [(2, 2)] with activePlane := 2 }
      (fun t => ((t.res, t.activePlane, t.out), t.plane0.length, t.plane1.length, t.plane0.any id || t.plane1.any id)) =
      some ((.high, 2, [.resolutionChanged .high]), 8192, 8192, false) := by decide +kernel
/-- DS14. -/
theorem test_low :
    afterStep (drawn [0x00FE] [(1, 1)] [(2, 2)])
      (fun t => (t.res, t.plane0.length, t.plane1.length, t.plane0.any id || t.plane1.any id, t.out)) =
      some (.low, 2048, 2048, false, [.resolutionChanged .low]) := by decide +kernel
/-- DS16. -/
theorem test_plane :
    [0xF001, 0xF101, 0xF201, 0xF301, 0xF401, 0xF601, 0xFF01].map (fun w => afterStep (atStart [w]) (·.activePlane)) =
      [some 0, some 1, some 2, some 3, some 0, some 2, some 3] := by decide

/-! ### Sprite draw (section 3.6) -/

/-- DR1: wrapping. -/
theorem test_drw_wraps :
    afterStep (dataSet (regsSet (atStart [0xD012]) [(0, 62), (1, 1), (15, 1)]) 0x300 [0xF0, 0x90])
      (fun t => (probe 64 t.plane0 [(62, 1), (63, 1), (0, 1), (1, 1), (62, 2), (63, 2), (0, 2), (1, 2), (2, 1)], t.reg 15, t.i)) =
      some ([true, true, true, true, true, false, false, true, false], 0, 0x300) := by decide +kernel
/-- DR2: clipping. -/
theorem test_drw_clips :
    afterStep (quirksSet (dataSet (regsSet (atStart [0xD012]) [(0, 62), (1, 1), (15, 1)]) 0x300 [0xF0, 0x90])
      { noQuirks with clipSprites := true })
      (fun t => (probe 64 t.plane0 [(62, 1), (63, 1), (0, 1), (1, 1), (62, 2), (1, 2)], t.reg 15)) =
      some ([true, true, false, false, true, false], 0) := by decide +kernel
/-- DR9: a collision in plane 1 only, whose data follows plane 0's. -/
theorem test_drw_two_planes :
    afterStep { dataSet (drawn [0xD011] [] [(1, 0)]) 0x300 [0x80, 0x40] with activePlane := 3 }
      (fun t => (probe 64 t.plane0 [(0, 0), (1, 0)] ++ probe 64 t.plane1 [(0, 0), (1, 0)], t.reg 15)) =
      some ([true, false, false, false], 1) := by decide +kernel
/-- DR11: the big sprite, two bytes a row. -/
theorem test_drw_big :
    afterStep (dataSet (regsSet (atStart [0xD010]) [(0, 56), (1, 24)]) 0x300
      ([0x80, 0x01] ++ List.replicate 28 0 ++ [0x80, 0x01]))
      (fun t => (probe 64 t.plane0 [(56, 24), (7, 24), (56, 7), (7, 7), (57, 24)], t.reg 15)) =
      some ([true, true, true, true, false], 0) := by decide +kernel
/-- DR13: the coordinate is read before VF is cleared. -/
theorem test_drw_vf :
    afterStep (dataSet (regsSet (atStart [0xDF01]) [(15, 5), (0, 2)]) 0x300 [0x80])
      (fun t => (probe 64 t.plane0 [(5, 2), (0, 2)], t.reg 15)) = some ([true, false], 0) := by decide +kernel
/-- DR15, DR16: the whole source is checked. -/
theorem test_drw_beyond :
    afterStep (dataSet (atStart [0xD012]) 0xFFF []) (·.halt) = some (some .memoryOutOfRange) ∧
      afterStep { dataSet (atStart [0xD012]) 0xFFE [] with activePlane := 3 } (·.halt) = some (some .memoryOutOfRange) := by decide
/-- DR10b: nothing is read with no plane selected. -/
theorem test_drw_no_plane :
    afterStep { regsSet (atStart [0xD011]) [(15, 1)] with activePlane := 0, i := 0xFFFF } (fun t => (t.halt, t.reg 15)) =
      some (none, 0) := by decide +kernel

/-! ### Timers, audio, key wait (sections 3.7 and 3.8) -/

/-- TA1. -/
theorem test_ldVxDt : afterStep { atStart [0xF307] with dt := 0x1E } (·.reg 3) = some 0x1E := by decide
/-- TA2. -/
theorem test_ldDtVx : afterStep (regsSet (atStart [0xF315]) [(3, 0x3C)]) (·.dt) = some 0x3C := by decide
/-- TA3. -/
theorem test_ldStVx_zero :
    afterStep { atStart [0xF218] with st := 9, audioBuffer := Vector.replicate 16 0xFF } (fun t => (t.st, t.audioBuffer, t.out)) =
      some (0, Vector.replicate 16 0, []) := by decide
/-- TA4. -/
theorem test_ldStVx :
    afterStep { regsSet (atStart [0xF218]) [(2, 5)] with audioBuffer := Vector.replicate 16 0xFF } (fun t => (t.st, t.audioBuffer)) =
      some (5, Vector.replicate 16 0xFF) := by decide
/-- TA5, TA6: counting down stops at 0. -/
theorem test_tick :
    afterStep (eventSet { atStart [] with dt := 1, st := 0 } .tick) (fun t => (t.dt, t.st)) = some (0, 0) ∧
      afterStep (eventSet { atStart [] with dt := 255, st := 2 } .tick) (fun t => (t.dt, t.st)) = some (254, 1) := by decide
/-- TA9b: the field x is ignored. -/
theorem test_audio :
    afterStep (dataSet (atStart [0xF702]) 0x300 [1, 2, 3, 4, 5, 6, 7, 8, 9, 10, 11, 12, 13, 14, 15, 16])
      (fun t => (t.audioBuffer, t.out)) =
      some (#v[1, 2, 3, 4, 5, 6, 7, 8, 9, 10, 11, 12, 13, 14, 15, 16], [.audioBufferUpdated]) := by decide
/-- TA11. -/
theorem test_audio_beyond :
    afterStep (dataSet (atStart [0xF002]) 0xFF1 []) (fun t => (t.halt, t.out)) = some (some .memoryOutOfRange, []) := by decide
/-- TA12. -/
theorem test_pitch : afterStep (regsSet (atStart [0xF03A]) [(0, 0x40)]) (·.bufferPitch) = some 0x40 := by decide
/-- KW1, step 1: nothing is sampled. -/
theorem test_ldVxK :
    afterStep (keysSet (atStart [0xF10A]) [5]) (fun t => (t.waiting, t.pc, t.out)) = some (some ⟨1, none⟩, 0x202, [.waitingForKey]) := by
  decide
/-- KW1, step 2: key 1 comes before key C. -/
theorem test_keywait_latches :
    afterStep (keysSet { atStart [] with waiting := some ⟨1, none⟩ } [0xC, 0x1]) (fun t => (t.waiting, t.reg 1)) =
      some (some ⟨1, some 1⟩, 0) := by decide
/-- KW4: key A comes before key 0. -/
theorem test_keywait_order :
    afterStep (keysSet { atStart [] with waiting := some ⟨3, none⟩ } [0x0, 0xA]) (·.waiting) = some (some ⟨3, some 0xA⟩) := by decide
/-- KW4, step 3: the release delivers, key 0 still down is irrelevant. -/
theorem test_keywait_delivers :
    afterStep (keysSet { atStart [] with waiting := some ⟨3, some 0xA⟩ } [0x0]) (fun t => (t.waiting, t.reg 3, t.pc)) =
      some (none, 0x0A, 0x200) := by decide

/-! ### Reset and LoadRom (section 3.9) -/

/-- RS1. -/
theorem test_reset :
    afterStep (eventSet { regsSet (atStart [0x1200]) [(3, 7)] with
      halt := some .stackUnderflow, waiting := some ⟨0, none⟩, rpl := Vector.replicate 16 9, res := .high } .reset)
      (fun t => (t.reg 3, t.halt, t.running, t.rpl)) = some (0, none, false, Vector.replicate 16 9) := by decide
/-- RS3. -/
theorem test_loadRom :
    afterStep (eventSet { State.reset with halt := some .stackUnderflow } (.loadRom [0x12, 0x00]))
      (fun t => (bytesAt t [0x200, 0x201], t.running, t.halt)) = some ([0x12, 0x00], true, none) := by decide
/-- RS4. -/
theorem test_loadRom_empty :
    afterStep (eventSet (atStart [0x6001]) (.loadRom [])) (fun t => (t.running, bytesAt t [0x200, 0x201])) = some (true, [0x60, 0x01]) := by
  decide
/-- R44, R279. -/
theorem test_clearAudioBuffer :
    afterStep (eventSet { atStart [] with audioBuffer := Vector.replicate 16 1 } .clearAudioBuffer) (·.audioBuffer) =
      some (Vector.replicate 16 0) := by decide

/-! ### The host's questions: the step runs the placed instruction right after reset -/

theorem test_withFetchWord :
    afterStep (State.reset.withFetchWord 16 0x6FAB) (·.reg 15) = some 0xAB ∧
      afterStep (State.reset.withFetchWord 32 0x1234F000) (·.i) = some 0x1234 := by decide

/-- A state with I and the plane mask set. -/
def atI (i : Word) (mask : BitVec 2) : State := { atStart [] with i := i, activePlane := mask }

/-! ### Witnesses: for each statement with hypotheses, operands and states that meet them, at the boundary of each clause -/

/-- A state that fetches the words at 0x200. -/
theorem fetching_atStart (ws : List Word) : (atStart ws).fetching := ⟨rfl, rfl, rfl⟩

theorem witness_DecodeOfEncodeIsIdentity : Instr.wellFormed (.drw 15 15 15) = true ∧ Instr.wellFormed (.ldILong 0xFFFF) = true := by
  decide

theorem witness_EncodeOfDecodeIsIdentity :
    decode [0xF0, 0x00, 0xFF, 0xFF, 0x01] = .ok (.ldILong 0xFFFF) [0x01] ∧ decode [0xFF, 0x02] = .ok (.audio 15) [] := by decide

theorem witness_DecodeFollowsTheOpcodeTable :
    ⟨34, 0xE09E, 0xF0FF⟩ ∈ opcodeTable ∧ decode [0xEF, 0x9E, 0, 0] = .ok (.skp 15) [0, 0] ∧
      wordOfBytes 0xEF 0x9E &&& 0xF0FF = 0xE09E ∧ wordOfBytes 0xEF 0x9F &&& 0xF0FF ≠ 0xE09E := by decide

/-- One word of each family of R95, each beside a row of the table. -/
theorem witness_UnknownWordsAreExactlyTheListedOnes :
    listedUnknown 0x0001 ∧ listedUnknown 0x00BF ∧ listedUnknown 0x0FFF ∧ listedUnknown 0x5001 ∧ listedUnknown 0x8008 ∧
      listedUnknown 0x9001 ∧ listedUnknown 0xE09F ∧ listedUnknown 0xF100 ∧ listedUnknown 0xFFFF ∧ ¬listedUnknown 0x00C0 ∧
      ¬listedUnknown 0x00DF ∧ ¬listedUnknown 0x5002 ∧ ¬listedUnknown 0x8007 ∧ ¬listedUnknown 0xF000 := by
  unfold listedUnknown
  refine ⟨?_, ?_, ?_, ?_, ?_, ?_, ?_, ?_, ?_, ?_, ?_, ?_, ?_, ?_⟩ <;> decide

theorem witness_StepRunsTheDecodedInstruction :
    (atStart [0x6FAB]).fetching ∧ decode ((atStart [0x6FAB]).mem.window (atStart [0x6FAB]).pc.toNat 4) = .ok (.ldImm 15 0xAB) [0, 0] :=
  ⟨fetching_atStart _, by decide⟩

/-- A two-byte and the four-byte instruction. -/
theorem witness_StepRunsTheInstructionInMemory :
    ((atStart [0xD01F]).fetching ∧ Instr.wellFormed (.drw 0 1 15) = true ∧ (atStart [0xD01F]).holdsAtPc (encode (.drw 0 1 15))) ∧
      ((atStart [0xF000, 0x1234]).fetching ∧ (atStart [0xF000, 0x1234]).holdsAtPc (encode (.ldILong 0x1234))) :=
  ⟨⟨fetching_atStart _, by decide, by decide, by decide⟩, fetching_atStart _, by decide, by decide⟩

theorem witness_FetchBeyondMemoryAborts :
    State.fetching { atStart [] with pc := 4095 } ∧ 4094 < (4095 : Word).toNat :=
  ⟨⟨rfl, rfl, rfl⟩, by decide⟩

theorem witness_UnknownOpcodeNotifiesAndContinues :
    (atStart [0x8008]).fetching ∧ (atStart [0x8008]).holdsAtPc [highByte 0x8008, lowByte 0x8008] ∧ listedUnknown 0x8008 :=
  ⟨fetching_atStart _, ⟨by decide, by decide⟩, by unfold listedUnknown; decide⟩

/-- Not running, and halted; a Step, and a Tick. -/
theorem witness_TickAndStepAreInertWhenNotLive :
    (State.live { atStart [] with running := false } = false ∧ State.reset.inp.event = .step) ∧
      (eventSet { atStart [] with halt := some .stackUnderflow } .tick).live = false := by decide

/-- The four states of a wait: nothing pressed, key 1 first in scan order beside key F, the latched key down, and released. -/
theorem witness_KeyWaitPollLatchesThenDelivers :
    (∀ k, State.keyDown { atStart [] with waiting := some ⟨15, none⟩ } k = false) ∧
      ((keysSet (atStart []) [0x1, 0xF]).keyDown 0x1 = true ∧ ∀ j, (keysSet (atStart []) [0x1, 0xF]).keyDown j = true →
        [0x1, 0x2, 0x3, 0xC, 0x4, 0x5, 0x6, 0xD, 0x7, 0x8, 0x9, 0xE, 0xA, 0x0, 0xB, 0xF].idxOf 0x1 ≤
          [0x1, 0x2, 0x3, 0xC, 0x4, 0x5, 0x6, 0xD, 0x7, 0x8, 0x9, 0xE, 0xA, 0x0, 0xB, 0xF].idxOf j) ∧
      (keysSet (atStart []) [0xF]).keyDown 0xF = true ∧ (keysSet (atStart []) [0x1]).keyDown 0xF = false ∧
      (atStart []).live = true ∧ (atStart []).inp.event = .step := by decide

theorem witness_TickCountsTheTimersDown :
    (eventSet { atStart [] with dt := 0, st := 255 } .tick).inp.event = .tick := by decide

theorem witness_NopOnlyAdvancesPc : (atStart [0x0000]).fetching ∧ (atStart [0x0000]).holdsAtPc [0x00, 0x00] :=
  ⟨fetching_atStart _, by decide, by decide⟩

theorem witness_EveryStepCompletes :
    ∀ g, (eventSet (atStart []) (.loadFont (List.replicate 512 1))).inp.event = .loadFont g → g.length ≤ 512 := by
  intro g h
  have e : HostEvent.loadFont (List.replicate 512 1) = .loadFont g := h
  injection e with e
  subst e
  exact Nat.le_of_eq List.length_replicate

theorem witness_ResetEventKeepsOnlyTheFlagSlot : (eventSet (atStart []) .reset).inp.event = .reset := by decide

/-- The shortest and the longest ROM. -/
theorem witness_LoadRomResetsCopiesAndRuns :
    ((eventSet (atStart []) (.loadRom [0x60])).inp.event = .loadRom [0x60] ∧ 1 ≤ [(0x60 : Byte)].length) ∧
      (List.replicate 3584 (0xAA : Byte)).length ≤ 3584 := ⟨by decide, by rw [List.length_replicate]⟩

/-- No byte, and one byte too many. -/
theorem witness_LoadRomRejectedChangesNothing :
    (eventSet (atStart []) (.loadRom [])).inp.event = .loadRom [] ∧ 3584 < (List.replicate 3585 (0xAA : Byte)).length :=
  ⟨by decide, by rw [List.length_replicate]; decide⟩

theorem witness_OnlyResetOrAValidLoadLeavesTheHalt :
    State.halt { atStart [] with halt := some .stackUnderflow } ≠ none ∧
      (∃ t, step { atStart [] with halt := some .stackUnderflow } = .next t) ∧ (atStart []).inp.event ≠ .reset ∧
      (eventSet (atStart []) (.loadRom [])).inp.event = .loadRom [] ∧ ¬(1 ≤ ([] : List Byte).length) :=
  ⟨by decide, ⟨_, rfl⟩, by decide, by decide, by decide⟩

/-- A state at the bounds of the invariant: pc 0x10FE, a stack element 4096, one byte written, the high resolution. -/
def atBounds : State :=
  { atStart [] with
    pc := 0x10FE, stack := [4096], mem := [(0xFFF, 7)], res := .high
    plane0 := blankPlane .high, plane1 := blankPlane .high }

theorem witness_StepKeepsTheInvariant : atBounds.Inv ∧ ∃ t, step atBounds = .next t := by
  refine ⟨⟨by decide, fun _ => ⟨⟨?_, ?_⟩, ?_, ?_⟩⟩, _, rfl⟩
  · exact List.length_replicate
  · exact List.length_replicate
  · intro w hw
    rw [List.mem_singleton.1 hw]; decide
  · exact Nat.le_refl _

theorem witness_CanonicalMemoriesThatReadAlikeAreEqual :
    Memory.wf [(0x200, 5), (0xFFF, 6)] ∧ Memory.wf (Memory.set [(0xFFF, 6)] 0x200 5) := by decide

/-- One abort of each cause, at the boundary, from a state that is not halted; the skip is taken. -/
theorem witness_AbortsHaveNoOtherCauses :
    afterExec .ret (atStart []) (·.halt) = some (some .stackUnderflow) ∧
      afterExec (.skp 4) (regsSet (atStart []) [(4, 16)]) (·.halt) = some (some .keyIndexOutOfRange) ∧
      (afterExec (.seImm 0 0) { atStart [] with pc := 4095 } (·.halt) = some (some .memoryOutOfRange) ∧
        skipTaken (.seImm 0 0) { atStart [] with pc := 4095 }) ∧
      afterExec (.bcd 0) (atI 4094 1) (·.halt) = some (some .memoryOutOfRange) ∧ (atStart []).halt = none ∧ (atI 4094 1).halt = none :=
  ⟨by decide, by decide, ⟨by decide, show State.reg (atStart []) 0 = 0 by decide⟩, by decide, by decide, by decide⟩

/-- For each element of the state an instruction that changes it, without an abort; and an abort, which changes `halt`. -/
theorem witness_StateIsWrittenOnlyByTheListedInstructions :
    (∃ t, exec (.ldRVx 0) { atStart [] with rpl := Vector.replicate 16 3 } = .next t ∧ t.rpl ≠ Vector.replicate 16 3) ∧
      (∃ t, exec .ret (atStart []) = .next t ∧ t.halt ≠ (atStart []).halt) ∧
      (∃ t, exec (.ldImm 15 1) (atStart []) = .next t ∧ t.halt = none ∧ t.v ≠ (atStart []).v) ∧
      (∃ t, exec (.jp 0xFFF) (atStart []) = .next t ∧ t.halt = none ∧ t.pc ≠ (atStart []).pc) ∧
      (∃ t, exec (.ldI 0xFFF) (atStart []) = .next t ∧ t.halt = none ∧ t.i ≠ (atStart []).i) ∧
      (∃ t, exec (.ldDtVx 0) { atStart [] with dt := 9 } = .next t ∧ t.halt = none ∧ t.dt ≠ 9) ∧
      (∃ t, exec (.ldStVx 0) { atStart [] with st := 9, audioBuffer := Vector.replicate 16 1 } = .next t ∧ t.halt = none ∧ t.st ≠ 9 ∧
        t.audioBuffer ≠ Vector.replicate 16 1) ∧
      (∃ t, exec (.call 0) (atStart []) = .next t ∧ t.halt = none ∧ t.stack ≠ (atStart []).stack) ∧
      (∃ t, exec (.bcd 0) (dataSet (atStart []) 0xFFD [1]) = .next t ∧ t.halt = none ∧ t.mem ≠ (dataSet (atStart []) 0xFFD [1]).mem) ∧
      (∃ t, exec .high (atStart []) = .next t ∧ t.halt = none ∧ t.res ≠ (atStart []).res) ∧
      (∃ t, exec .cls { atStart [] with plane0 := [] } = .next t ∧ t.halt = none ∧ t.plane0 ≠ []) ∧
      (∃ t, exec (.plane 2) (atStart []) = .next t ∧ t.halt = none ∧ t.activePlane ≠ (atStart []).activePlane) ∧
      (∃ t, exec (.ldVxK 0) (atStart []) = .next t ∧ t.halt = none ∧ t.waiting ≠ (atStart []).waiting) ∧
      (∃ t, exec (.pitch 0) { atStart [] with bufferPitch := 9 } = .next t ∧ t.halt = none ∧ t.bufferPitch ≠ 9) ∧
      (∃ t, exec .exit (atStart []) = .next t ∧ t.halt = none ∧ t.exitReq ≠ (atStart []).exitReq) := by
  refine ⟨⟨_, rfl, ?_⟩, ⟨_, rfl, ?_⟩, ⟨_, rfl, ?_⟩, ⟨_, rfl, ?_⟩, ⟨_, rfl, ?_⟩, ⟨_, rfl, ?_⟩, ⟨_, rfl, ?_⟩, ⟨_, rfl, ?_⟩, ⟨_, rfl, ?_⟩,
    ⟨_, rfl, ?_⟩, ⟨_, rfl, rfl, List.cons_ne_nil _ _⟩, ⟨_, rfl, ?_⟩, ⟨_, rfl, ?_⟩, ⟨_, rfl, ?_⟩, ⟨_, rfl, ?_⟩⟩ <;> decide

theorem witness_FlagSlotChangesOnlyByFx75 :
    ∃ t, step { atStart [0xF075] with rpl := Vector.replicate 16 3 } = .next t ∧ t.rpl ≠ Vector.replicate 16 3 :=
  ⟨_, rfl, by decide⟩

/-- An instruction that emits, and one that aborts. -/
theorem witness_NotificationsAreThoseOfTheTable :
    (∃ t, exec (.ldVxK 15) (atStart []) = .next t ∧ t.out = [.waitingForKey]) ∧
      ∃ t, exec (.audio 0) { atStart [] with i := 4081 } = .next t ∧ t.halt = some .memoryOutOfRange ∧ t.out = [] :=
  ⟨⟨_, rfl, by decide⟩, _, rfl, by decide⟩

theorem witness_PublishedOnlyStateIsNeverRead : ∃ t, exec (.ldVxDt 0) (atStart []) = .next t := ⟨_, rfl⟩

theorem witness_ReturnPopsOrAborts :
    State.stack { atStart [] with stack := [0x206, 0x30A] } = [0x206] ++ [0x30A] ∧ (atStart []).stack = [] := by decide

/-- Both settings of the quirk, and the greatest register number. -/
theorem witness_JumpPlusRegister :
    (atStart []).inp.quirks.jumpBits = false ∧ (quirksSet (atStart []) { noQuirks with jumpBits := true }).inp.quirks.jumpBits = true ∧
      (15 : RegIx).val = (0xFFF : Addr12).toNat / 256 := by decide

/-- A condition that holds and one that does not, and at the last pc at which a word can be read: 0xF000 there, another word, no word. -/
theorem witness_CompareSkips :
    (Instr.seImm 0 0 = .seImm 0 0 ∧ (True ↔ (atStart []).reg 0 = 0)) ∧ (Instr.sneImm 0 0 = .sneImm 0 0 ∧ (False ↔ (atStart []).reg 0 ≠ 0)) ∧
      (True ↔ (atStart []).reg 3 = (atStart []).reg 3) ∧ (False ↔ (atStart []).reg 3 ≠ (atStart []).reg 3) ∧
      (Memory.get (Memory.setBytes [] 4094 [0xF0, 0x00]) 4094 = 0xF0 ∧ Memory.get (Memory.setBytes [] 4094 [0xF0, 0x00]) 4095 = 0x00) ∧
      ¬(Memory.get (Memory.setBytes [] 4094 [0xF0, 0x01]) 4094 = 0xF0 ∧ Memory.get (Memory.setBytes [] 4094 [0xF0, 0x01]) 4095 = 0x00) ∧
      (4094 : Word).toNat ≤ 4094 ∧ 4094 < (4095 : Word).toNat := by decide

theorem witness_KeySkips :
    15 < ((regsSet (atStart []) [(4, 16)]).reg 4).toNat ∧
      ((15 : Fin 16).val = ((regsSet (atStart []) [(4, 15)]).reg 4).toNat ∧ (keysSet (atStart []) [15]).keyDown 15 = true ∧
        (keysSet (atStart []) []).keyDown 15 ≠ true) := by decide

theorem witness_LogicWritesTheResultThenZeroesVfUnderTheQuirk :
    (Instr.orReg 15 1 = .orReg 15 1 ∧ (0xF1 : Byte) = (regsSet (atStart []) [(15, 1), (1, 0xF0)]).reg 15 ||| 0xF0) ∧
      (Instr.andReg 15 1 = .andReg 15 1 ∧ (0 : Byte) = 1 &&& 0xF0) ∧ (Instr.xorReg 15 1 = .xorReg 15 1 ∧ (0xF1 : Byte) = 1 ^^^ 0xF0) := by
  decide

theorem witness_SubtractWritesTheDifferenceThenNotBorrow :
    (Instr.subReg 0 1 = .subReg 0 1 ∧ (0x10 : Byte) = (regsSet (atStart []) [(0, 0x10), (1, 0x20)]).reg 0 ∧
        (0x20 : Byte) = (regsSet (atStart []) [(0, 0x10), (1, 0x20)]).reg 1) ∧
      (Instr.subn 0 1 = .subn 0 1 ∧ (0x20 : Byte) = (regsSet (atStart []) [(0, 0x10), (1, 0x20)]).reg 1) := by decide

theorem witness_ShiftsMoveOneBitIntoVf :
    ((5 : Byte) = if (quirksSet (regsSet (atStart []) [(0, 5), (1, 8)]) { noQuirks with vxShiftedDirectly := true }).inp.quirks.vxShiftedDirectly = true
      then (regsSet (atStart []) [(0, 5), (1, 8)]).reg 0 else (regsSet (atStart []) [(0, 5), (1, 8)]).reg 1) ∧
    ((8 : Byte) = if (atStart []).inp.quirks.vxShiftedDirectly = true
      then (regsSet (atStart []) [(0, 5), (1, 8)]).reg 0 else (regsSet (atStart []) [(0, 5), (1, 8)]).reg 1) := by decide

/-- The last pc with an operand word, and the first without. -/
theorem witness_ExtendedLoadTakesTheNextWord :
    (State.fetching { atStart [] with pc := 4092, mem := Memory.setBytes [] 4092 [0xF0, 0x00] } ∧
      State.holdsAtPc { atStart [] with pc := 4092, mem := Memory.setBytes [] 4092 [0xF0, 0x00] } [0xF0, 0x00]) ∧
    (State.fetching { atStart [] with pc := 4093, mem := Memory.setBytes [] 4093 [0xF0, 0x00] } ∧
      State.holdsAtPc { atStart [] with pc := 4093, mem := Memory.setBytes [] 4093 [0xF0, 0x00] } [0xF0, 0x00]) :=
  ⟨⟨⟨rfl, rfl, rfl⟩, by decide, by decide⟩, ⟨rfl, rfl, rfl⟩, by decide, by decide⟩

/-- The last I at which each load or store of memory fits, and the next one: BCD, the bulk forms with x = F, the range forms, AUDIO. -/
theorem witness_BcdBulkRangeAndAudio :
    ((atI 4093 1).iAddr + 2 ≤ 4095 ∧ 4095 < (atI 4094 1).iAddr + 2) ∧
      ((atI 4080 1).iAddr + (15 : RegIx).val ≤ 4095 ∧
        4095 < (atI 4081 1).iAddr + (15 : RegIx).val) ∧
      ((atI 4093 1).iAddr + (((3 : RegIx).val - (1 : RegIx).val) + ((1 : RegIx).val - (3 : RegIx).val)) ≤ 4095 ∧
        4095 < (atI 4094 1).iAddr + (((1 : RegIx).val - (3 : RegIx).val) + ((3 : RegIx).val - (1 : RegIx).val))) ∧
      ((atI 4080 1).i.toNat + 15 ≤ 4095 ∧ 4095 < (atI 4081 1).i.toNat + 15) := by decide

/-- A selected and an unselected plane. -/
theorem witness_ScrollsMoveTheSelectedPlanes :
    Instr.scd 15 = .scd 15 ∧ Instr.scu 0 = .scu 0 ∧ (atStart []).selected 0 = true ∧ (atStart []).selected 1 = false ∧
      State.selected { atStart [] with activePlane := 2 } 0 = false ∧ State.selected { atStart [] with activePlane := 2 } 1 = true := by
  decide

theorem planesSized_atStart (ws : List Word) : (atStart ws).planesSized := ⟨List.length_replicate, List.length_replicate⟩

theorem witness_ScrollByNothingAndByEverything :
    (atStart []).planesSized ∧ Resolution.low.height ≤ 32 ∧ Resolution.high.height ≤ 64 ∧ Resolution.low.width ≤ 64 ∧
      Resolution.high.width ≤ 128 := ⟨planesSized_atStart _, by decide⟩

/-- The last pixel of the low resolution. -/
theorem witness_PixelToggleReportsErasure :
    resetPlane.length = Resolution.low.pixels ∧ 63 < Resolution.low.width ∧ 31 < Resolution.low.height :=
  ⟨List.length_replicate, by decide⟩

/-- All hypotheses together, with the registers 3 and 4 at coordinates beyond the screen: a big sprite that ends at 0xFFF, both planes' 15
rows that end there, and no plane with I beyond memory. -/
theorem witness_DrawTogglesTheLitPixelsAndReportsErasure :
    ∀ c ∈ [((0xFE0 : Word), (1 : BitVec 2), 0), (0xFE2, 3, 15), (0xFFFF, 0, 15)],
      let s := regsSet (atI c.1 c.2.1) [(3, 70), (4, 33)]
      c.2.2 < 16 ∧ s.planesSized ∧ 6 = (s.reg 3).toNat % s.res.width ∧ 1 = (s.reg 4).toNat % s.res.height ∧
        (s.selectedCount = 0 ∨ s.i.toNat + (if c.2.2 = 0 then 32 else c.2.2) * s.selectedCount ≤ 4096) := by
  intro c hc
  simp only [List.mem_cons, List.not_mem_nil, or_false] at hc
  rcases hc with rfl | rfl | rfl <;>
    exact ⟨by decide, ⟨List.length_replicate, List.length_replicate⟩, by decide, by decide, by decide⟩

/-- One byte too many, the last source that fits, and no plane. -/
theorem witness_DrawChecksTheWholeSource :
    ((atI 0xFE1 1).selectedCount ≠ 0 ∧ 4096 < (atI 0xFE1 1).i.toNat + 32 * (atI 0xFE1 1).selectedCount) ∧
      ((atI 0xFE2 3).selectedCount ≠ 0 ∧ (atI 0xFE2 3).i.toNat + 15 * (atI 0xFE2 3).selectedCount ≤ 4096) ∧
      (atI 0xFFFF 0).activePlane = 0 := by decide

/-- With a zero low nibble the sum is the base alone, which always fits. -/
theorem witness_IndexArithmetic :
    Config.bigFontBase.toNat + ((regsSet (atStart []) [(1, 0xF0)]).reg 1).toNat % 16 * Config.bigFontStride < 65536 := by
  have e : ((regsSet (atStart []) [(1, 0xF0)]).reg 1).toNat % 16 = 0 := by decide
  rw [e, Nat.zero_mul]
  exact Nat.lt_trans (BitVec.isLt _) (by decide)

theorem witness_TimerMoves : (atStart []).reg 2 = 0 ∧ (regsSet (atStart []) [(2, 255)]).reg 2 ≠ 0 := by decide

end Sys2Proof.Tests
end

section
/-! PROOFS. The execution cycle's own instructions (40_execution_cycle.md): the step of an instruction that stands in memory, and NOP. -/

namespace Sys2Proof.Machine

/-- A Step whose fetch decodes an instruction runs it with pc past the opcode word and no notification yet (R113, R116). -/
theorem step_of_decode {s : State} {i : Instr} {rest : List Byte} (hf : s.fetching)
    (hd : decode (s.mem.window s.pc.toNat 4) = .ok i rest) :
    step s = thenNextInput (exec i s.clearOut.advance) := by
  rw [step_of_fetching hf]
  have hfetch : s.clearOut.fetchExecute = exec i s.clearOut.advance := by
    simp only [State.fetchExecute, clearOut_mem, clearOut_pc, hd]
  rw [hfetch]

/-- The word 0x0000 is NOP, whatever bytes follow (R93, row 1). -/
theorem decode_nop (rest : List Byte) : decode (0x00 :: 0x00 :: rest) = .ok .nop rest := rfl

theorem exec_nop (s : State) : exec .nop s = .next s := rfl

/-- The fetch and the host's next input change no state of the block but pc (R40, R116). -/
theorem sameBlock_clearOut_advance_nextInput (s : State) :
    sameBlock { s with pc := s.pc + 2 } s.clearOut.advance.nextInput := rfl

/-- A Step that fetches 0x0000 is the fetch alone (R118). -/
theorem step_of_nop {s : State} (hf : s.fetching) (hp : s.holdsAtPc [0x00, 0x00]) :
    step s = .next s.clearOut.advance.nextInput := by
  obtain ⟨rest, hw⟩ := window_of_holdsAtPc hp (by decide)
  have hd : decode (s.mem.window s.pc.toNat 4) = .ok .nop rest := hw ▸ decode_nop rest
  rw [step_of_decode hf hd, exec_nop, thenNextInput]

/-- Settles O28: NOP's meaning is the identity, so what a step that fetches it does is the fetch's `pc + 2`. -/
theorem nopOnlyAdvancesPc : Obligations.NopOnlyAdvancesPc := by
  unfold Obligations.NopOnlyAdvancesPc
  refine ⟨exec_nop, fun s hf hp => ⟨s.clearOut.advance.nextInput, step_of_nop hf hp, ?_, ?_⟩⟩
  · rw [nextInput_out, advance_out, clearOut_out]
  · exact sameBlock_clearOut_advance_nextInput s

end Sys2Proof.Machine
end

section
/-! PROOFS. Control transfer (41_control_flow.md): JP V0, nnn. -/

namespace Sys2Proof.Machine

theorem exec_jpV0 (nnn : Addr12) (s : State) :
    exec (.jpV0 nnn) s =
      .next { s with pc := BitVec.ofNat 16 (nnn.toNat + (s.reg (s.jumpRegister nnn)).toNat) } := rfl

/-- A 12-bit address and a byte never carry out of the 16 bits of pc: their sum is at most 0x10FE (R133). -/
theorem toNat_ofNat_addr_add_byte (a : Addr12) (b : Byte) :
    (BitVec.ofNat 16 (a.toNat + b.toNat)).toNat = a.toNat + b.toNat := by
  have ha : a.toNat < 4096 := a.isLt
  have hb : b.toNat < 256 := b.isLt
  rw [BitVec.toNat_ofNat, Nat.mod_eq_of_lt (by omega)]

theorem jumpRegister_of_not_jumpBits {s : State} (hq : s.inp.quirks.jumpBits = false) (nnn : Addr12) :
    s.jumpRegister nnn = 0 := by
  simp [State.jumpRegister, hq]

/-- The top nibble of a 12-bit address is a register number as it stands. -/
theorem jumpRegister_of_jumpBits {s : State} (hq : s.inp.quirks.jumpBits = true) {nnn : Addr12} {r : RegIx}
    (hr : r.val = nnn.toNat / 256) : s.jumpRegister nnn = r := by
  simp [State.jumpRegister, hq, ← hr]

/-- Settles O32: the sum fits in pc, and under either setting of the quirk the register added is the one R133 names. -/
theorem jumpPlusRegister : Obligations.JumpPlusRegister := by
  unfold Obligations.JumpPlusRegister
  intro nnn s
  refine ⟨_, exec_jpV0 nnn s, rfl, fun hq => ?_, fun hq r hr => ?_⟩
  · rw [toNat_ofNat_addr_add_byte, jumpRegister_of_not_jumpBits hq]
  · rw [toNat_ofNat_addr_add_byte, jumpRegister_of_jumpBits hq hr]

end Sys2Proof.Machine
end

section
/-! PROOFS. The register file (42_alu.md): the instructions that write one register and no flag. -/

namespace Sys2Proof.Machine

theorem exec_ldImm (x : RegIx) (nn : Byte) (s : State) : exec (.ldImm x nn) s = .next (s.setReg x nn) := rfl

theorem exec_addImm (x : RegIx) (nn : Byte) (s : State) :
    exec (.addImm x nn) s = .next (s.setReg x (BitVec.ofNat 8 ((s.reg x).toNat + nn.toNat))) := rfl

theorem exec_ldReg (x y : RegIx) (s : State) : exec (.ldReg x y) s = .next (s.setReg x (s.reg y)) := rfl

theorem exec_rnd (x : RegIx) (nn : Byte) (s : State) :
    exec (.rnd x nn) s = .next (s.setReg x (s.inp.randomByte &&& nn)) := rfl

/-- What an instruction that only writes one register does, and its frame: the other registers and all other state (R23). -/
theorem completes_of_eq_setReg {o : Result} {s : State} {x : RegIx} {b : Byte} (h : o = .next (s.setReg x b)) :
    Completes o fun t => t = { s with v := t.v } ∧ ∀ r, t.reg r = if r = x then b else s.reg r :=
  ⟨s.setReg x b, h, rfl, fun r => reg_setReg s x r b⟩

/-- Settles O35: each of the three is one register write, of the value its rule names (R150, R153, R162). -/
theorem registerLoadsWriteOnlyTheirRegister : Obligations.RegisterLoadsWriteOnlyTheirRegister := by
  unfold Obligations.RegisterLoadsWriteOnlyTheirRegister
  intro x y nn s
  exact ⟨completes_of_eq_setReg (exec_ldImm x nn s), completes_of_eq_setReg (exec_ldReg x y s),
    completes_of_eq_setReg (exec_rnd x nn s)⟩

/-- Settles O36: the one register write is of the exact sum narrowed to a byte, so VF changes only as the destination (R151). -/
theorem addImmediateWrapsWithoutAFlag : Obligations.AddImmediateWrapsWithoutAFlag := by
  unfold Obligations.AddImmediateWrapsWithoutAFlag
  intro x nn s
  obtain ⟨t, hnext, hframe, hreg⟩ := completes_of_eq_setReg (exec_addImm x nn s)
  refine ⟨t, hnext, hframe, ?_, fun r hr => ?_⟩
  · rw [hreg, if_pos rfl, BitVec.toNat_ofNat]
  · rw [hreg, if_neg hr]

end Sys2Proof.Machine
end

section
/-! PROOFS. The index register (43_index_memory.md): LD I, nnn. -/

namespace Sys2Proof.Machine

theorem exec_ldI (nnn : Addr12) (s : State) : exec (.ldI nnn) s = .next { s with i := nnn.setWidth 16 } := rfl

/-- Settles O41: the one write is of the 12-bit immediate widened to 16 bits, which keeps its value (R170). -/
theorem loadIndexImmediate : Obligations.LoadIndexImmediate := by
  unfold Obligations.LoadIndexImmediate
  intro nnn s
  refine ⟨_, exec_ldI nnn s, ?_, rfl⟩
  exact BitVec.toNat_setWidth_of_le (by decide)

end Sys2Proof.Machine
end

section
/-! PROOFS. The display (44_display.md): the scrolls, CLS, PLANE and the pixel toggle. -/

namespace Sys2Proof.Machine

/-! ### The selected planes (R199) -/

/-- What an instruction that changes the selected planes by `f` does, and its frame: the other planes and all other state. -/
theorem completes_of_eq_mapSelected {o : Result} {s : State} {f : List Bool → List Bool} (h : o = .next (s.mapSelected f)) :
    Completes o fun t => t = { s with plane0 := t.plane0, plane1 := t.plane1 } ∧
      t.plane0 = (if s.selected 0 = true then f s.plane0 else s.plane0) ∧
      t.plane1 = (if s.selected 1 = true then f s.plane1 else s.plane1) :=
  ⟨s.mapSelected f, h, rfl, mapSelected_plane0 s f, mapSelected_plane1 s f⟩

/-- A plane that is rebuilt pixel by pixel when it is selected: as it was if it is not, else of the resolution's size with those pixels. -/
theorem plane_rebuilt_if_selected {r : Resolution} {sel : Bool} {g : Nat → Nat → Bool} {p q : List Bool}
    (hq : q = if sel = true then planeOf r.width r.height g else p) :
    (sel = false → q = p) ∧
    (sel = true → q.length = r.pixels ∧ ∀ x y, x < r.width → y < r.height → pixelAt r.width q x y = g x y) := by
  constructor
  · rintro rfl
    exact hq
  · rintro rfl
    rw [if_pos rfl] at hq
    subst hq
    exact ⟨planeOf_length .., fun x y hx hy => pixelAt_planeOf g hx hy⟩

/-! ### The scrolls (R195 to R198, R200, R201, R203, R204) -/

theorem exec_scd (n : Nat) (s : State) : exec (.scd n) s = .next (s.mapSelected (scrolledDown s.res n)) := rfl

theorem exec_scu (n : Nat) (s : State) : exec (.scu n) s = .next (s.mapSelected (scrolledUp s.res n)) := rfl

theorem exec_scr (s : State) : exec .scr s = .next (s.mapSelected (scrolledRight s.res 4)) := rfl

theorem exec_scl (s : State) : exec .scl s = .next (s.mapSelected (scrolledLeft s.res 4)) := rfl

/-- Settles O50: each scroll rebuilds the selected planes pixel by pixel, from the pixels its rule names. -/
theorem scrollsMoveTheSelectedPlanes : Obligations.ScrollsMoveTheSelectedPlanes := by
  unfold Obligations.ScrollsMoveTheSelectedPlanes
  intro n s i f hi
  have hexec : exec i s = .next (s.mapSelected fun p => planeOf s.res.width s.res.height (f p)) := by
    obtain ⟨rfl, rfl⟩ | ⟨rfl, rfl⟩ | ⟨rfl, rfl⟩ | ⟨rfl, rfl⟩ := hi
    · exact exec_scd n s
    · exact exec_scu n s
    · exact exec_scr s
    · exact exec_scl s
  obtain ⟨t, hnext, hframe, h0, h1⟩ := completes_of_eq_mapSelected hexec
  obtain ⟨hkept0, hmoved0⟩ := plane_rebuilt_if_selected h0
  obtain ⟨hkept1, hmoved1⟩ := plane_rebuilt_if_selected h1
  exact ⟨t, hnext, hframe, hkept0, hkept1, hmoved0, hmoved1⟩

/-! ### CLS and PLANE (R202, R207) -/

theorem exec_cls (s : State) : exec .cls s = .next (s.mapSelected fun _ => blankPlane s.res) := rfl

theorem exec_plane (m : Nat) (s : State) : exec (.plane m) s = .next (s.setActivePlane m) := rfl

/-- Settles O52: CLS puts the blank plane of the resolution's size, a list of zeros, in place of each selected plane (R192). -/
theorem clearZeroesTheSelectedPlanes : Obligations.ClearZeroesTheSelectedPlanes := by
  unfold Obligations.ClearZeroesTheSelectedPlanes
  exact fun s => completes_of_eq_mapSelected (exec_cls s)

/-- Settles O54: the one write is of the immediate narrowed to the two bits of the mask (R194). -/
theorem planeSetsTheMask : Obligations.PlaneSetsTheMask := by
  unfold Obligations.PlaneSetsTheMask
  intro m s
  refine ⟨s.setActivePlane m, exec_plane m s, ?_, rfl⟩
  rw [setActivePlane_activePlane, BitVec.toNat_ofNat]

/-! ### The pixel toggle (R191) -/

/-- The toggle's answer is the pixel as it was. -/
theorem setPlanePixel_snd (w : Nat) (p : List Bool) (x y : Nat) : (setPlanePixel w p x y).2 = pixelAt w p x y := rfl

section
variable {w h x y : Nat} {p : List Bool} (hp : p.length = w * h) (hx : x < w) (hy : y < h)
include hp hx hy

theorem pixelAt_setPlanePixel_self : pixelAt w (setPlanePixel w p x y).1 x y = !pixelAt w p x y := by
  rw [pixelAt_setPlanePixel hp hx hy hx, if_pos ⟨rfl, rfl⟩]

/-- The toggle is its own inverse. -/
theorem setPlanePixel_setPlanePixel : (setPlanePixel w (setPlanePixel w p x y).1 x y).1 = p := by
  have hp' : (setPlanePixel w p x y).1.length = w * h := (setPlanePixel_length w p x y).trans hp
  refine plane_ext ((setPlanePixel_length ..).trans hp') hp fun x' y' hx' _ => ?_
  rw [pixelAt_setPlanePixel hp' hx hy hx', pixelAt_setPlanePixel_self hp hx hy]
  by_cases hsame : x' = x ∧ y' = y
  · rw [if_pos hsame, hsame.1, hsame.2, Bool.not_not]
  · rw [if_neg hsame, pixelAt_setPlanePixel hp hx hy hx', if_neg hsame]

end

/-- Settles O55: the answer is the pixel as it was, one pixel changes, and a second toggle finds it inverted and inverts it back. -/
theorem pixelToggleReportsErasure : Obligations.PixelToggleReportsErasure := by
  unfold Obligations.PixelToggleReportsErasure
  intro r p x y hp hx hy
  refine ⟨setPlanePixel_snd .., fun x' y' hx' _ => pixelAt_setPlanePixel hp hx hy hx',
    setPlanePixel_setPlanePixel hp hx hy, ?_⟩
  rw [setPlanePixel_snd, setPlanePixel_snd, pixelAt_setPlanePixel_self hp hx hy]

end Sys2Proof.Machine
end

section
/-! PROOFS. Timers, keys and audio (45_timers_keys_audio.md): LD Vx, K. -/

namespace Sys2Proof.Machine

/-- A notification is appended to the list the Step returns and changes no state of the block (R10, R246). -/
theorem emit_eq (s : State) (m : Message) : s.emit m = { s with out := s.out ++ [m] } := rfl

theorem exec_ldVxK (x : RegIx) (s : State) :
    exec (.ldVxK x) s = .next ({ s with waiting := some ⟨x, none⟩ }.emit .waitingForKey) := rfl

/-- Settles O59: LD Vx, K is the write of the wait record and one notification, which touches the output list only (R223). -/
theorem keyWaitIsEntered : Obligations.KeyWaitIsEntered := by
  unfold Obligations.KeyWaitIsEntered
  intro x s
  rw [exec_ldVxK, emit_eq]

end Sys2Proof.Machine
end

section
/-! PROOFS. Reset and LoadRom (70_reset_and_hazards.md): the rejected LoadRom. -/

namespace Sys2Proof.Machine

/-- The sizes LoadRom rejects: no byte, and more than R7's bound (R273). -/
theorem romSizeOk_eq_false_iff (n : Nat) : romSizeOk n = false ↔ n = 0 ∨ 3584 < n := by
  rw [romSizeOk, Config.romMax, decide_eq_false_iff_not]
  omega

theorem loadRom_of_rejected {bytes : List Byte} (h : romSizeOk bytes.length = false) (s : State) : s.loadRom bytes = s := by
  rw [State.loadRom, if_neg (Bool.eq_false_iff.mp h)]

theorem react_loadRom (s : State) (bytes : List Byte) : s.react (.loadRom bytes) = .next (s.loadRom bytes) := rfl

/-- The emptied notification list and the host's next input are no state of the block (R40, R45). -/
theorem sameBlock_clearOut_nextInput (s : State) : sameBlock s s.clearOut.nextInput := rfl

/-- Settles O18: LoadRom of a rejected size is the identity, so the step only empties the notifications and takes the next input. -/
theorem loadRomRejectedChangesNothing : Obligations.LoadRomRejectedChangesNothing := by
  unfold Obligations.LoadRomRejectedChangesNothing
  intro s bytes hevent hsize
  have hrejected : romSizeOk bytes.length = false := (romSizeOk_eq_false_iff _).mpr hsize
  refine ⟨s.clearOut.nextInput, ?_, ?_, sameBlock_clearOut_nextInput s⟩
  · rw [step_of_event hevent, react_loadRom, loadRom_of_rejected hrejected, thenNextInput]
  · rw [nextInput_out, clearOut_out]

end Sys2Proof.Machine
end

section
/-! PROOFS. Encoding and decoding (30_encoding.md): the fields of a word, the round trip both ways. -/

namespace Sys2Proof

/-! ### Words and bytes (R62) -/

theorem byte_toNat_lt (b : Byte) : b.toNat < 256 := b.isLt

theorem word_toNat_lt (w : Word) : w.toNat < 65536 := w.isLt

theorem wordOfBytes_toNat (hi lo : Byte) : (wordOfBytes hi lo).toNat = hi.toNat * 256 + lo.toNat := by
  rw [wordOfBytes, BitVec.toNat_append, ← Nat.shiftLeft_add_eq_or_of_lt lo.isLt, Nat.shiftLeft_eq]

@[simp] theorem wordOfBytes_highByte_lowByte (w : Word) : wordOfBytes (highByte w) (lowByte w) = w := by
  apply BitVec.eq_of_toNat_eq
  have hw := word_toNat_lt w
  simp only [wordOfBytes_toNat, highByte, lowByte, BitVec.toNat_ofNat]
  omega

@[simp] theorem highByte_wordOfBytes (hi lo : Byte) : highByte (wordOfBytes hi lo) = hi := by
  apply BitVec.eq_of_toNat_eq
  have hhi := byte_toNat_lt hi
  have hlo := byte_toNat_lt lo
  rw [highByte, wordOfBytes_toNat, BitVec.toNat_ofNat]
  omega

@[simp] theorem lowByte_wordOfBytes (hi lo : Byte) : lowByte (wordOfBytes hi lo) = lo := by
  apply BitVec.eq_of_toNat_eq
  have hlo := byte_toNat_lt lo
  rw [lowByte, wordOfBytes_toNat, BitVec.toNat_ofNat]
  omega

/-! ### The fields of an opcode word (R9) -/

theorem op1_lt (op : Word) : op1 op < 16 := by have := word_toNat_lt op; unfold op1; omega
theorem op2_lt (op : Word) : op2 op < 16 := Nat.mod_lt _ (by decide)
theorem op3_lt (op : Word) : op3 op < 16 := Nat.mod_lt _ (by decide)
theorem op4_lt (op : Word) : op4 op < 16 := Nat.mod_lt _ (by decide)

/-- A word is its four nibbles. -/
theorem word_eq_nibbles (op : Word) : op.toNat = op1 op * 4096 + op2 op * 256 + op3 op * 16 + op4 op := by
  unfold op1 op2 op3 op4; omega

theorem xField_val (op : Word) : (xField op).val = op2 op := Nat.mod_eq_of_lt (op2_lt op)

theorem yField_val (op : Word) : (yField op).val = op3 op := Nat.mod_eq_of_lt (op3_lt op)

theorem nnField_toNat (op : Word) : (nnField op).toNat = op.toNat % 256 := by
  rw [nnField, BitVec.toNat_ofNat]; unfold op3 op4; omega

theorem nnnField_toNat (op : Word) : (nnnField op).toNat = op.toNat % 4096 := by
  rw [nnnField, BitVec.toNat_ofNat, nnField_toNat]; unfold op2; omega

/-! ### The formats, read field by field (R91) -/

section
variable {k x y n nn : Nat}

theorem formatXYN_toNat (hk : k < 16) (hx : x < 16) (hy : y < 16) (hn : n < 16) :
    (formatXYN k x y n).toNat = k * 4096 + x * 256 + y * 16 + n := by
  rw [formatXYN, BitVec.toNat_ofNat]; omega

theorem formatXNN_toNat (hk : k < 16) (hx : x < 16) (hn : nn < 256) :
    (formatXNN k x nn).toNat = k * 4096 + x * 256 + nn := by
  rw [formatXNN, BitVec.toNat_ofNat]; omega

theorem formatNNN_toNat (hk : k < 16) (a : Addr12) : (formatNNN k a).toNat = k * 4096 + a.toNat := by
  have ha : a.toNat < 4096 := a.isLt
  rw [formatNNN, BitVec.toNat_ofNat]; omega


theorem op1_formatNNN (hk : k < 16) (a : Addr12) : op1 (formatNNN k a) = k := by
  have ha : a.toNat < 4096 := a.isLt
  rw [op1, formatNNN_toNat hk]; omega

theorem nnnField_formatNNN (hk : k < 16) (a : Addr12) : nnnField (formatNNN k a) = a := by
  have ha : a.toNat < 4096 := a.isLt
  apply BitVec.eq_of_toNat_eq
  rw [nnnField_toNat, formatNNN_toNat hk]; omega

theorem op1_formatXNN (hk : k < 16) (hx : x < 16) (hn : nn < 256) : op1 (formatXNN k x nn) = k := by
  rw [op1, formatXNN_toNat hk hx hn]; omega

theorem op2_formatXNN (hk : k < 16) (hx : x < 16) (hn : nn < 256) : op2 (formatXNN k x nn) = x := by
  rw [op2, formatXNN_toNat hk hx hn]; omega

theorem xField_formatXNN (hk : k < 16) (r : RegIx) (hn : nn < 256) : xField (formatXNN k r nn) = r := by
  rw [Fin.ext_iff, xField_val, op2_formatXNN hk r.isLt hn]

theorem nnField_formatXNN_toNat (hk : k < 16) (hx : x < 16) (hn : nn < 256) : (nnField (formatXNN k x nn)).toNat = nn := by
  rw [nnField_toNat, formatXNN_toNat hk hx hn]; omega

theorem nnField_formatXNN (hk : k < 16) (hx : x < 16) (b : Byte) : nnField (formatXNN k x b.toNat) = b :=
  BitVec.eq_of_toNat_eq (nnField_formatXNN_toNat hk hx b.isLt)

theorem op1_formatXYN (hk : k < 16) (hx : x < 16) (hy : y < 16) (hn : n < 16) : op1 (formatXYN k x y n) = k := by
  rw [op1, formatXYN_toNat hk hx hy hn]; omega

theorem op4_formatXYN (hk : k < 16) (hx : x < 16) (hy : y < 16) (hn : n < 16) : op4 (formatXYN k x y n) = n := by
  rw [op4, formatXYN_toNat hk hx hy hn]; omega

theorem xField_formatXYN (hk : k < 16) (r : RegIx) (hy : y < 16) (hn : n < 16) : xField (formatXYN k r y n) = r := by
  rw [Fin.ext_iff, xField_val, op2, formatXYN_toNat hk r.isLt hy hn]; omega

theorem yField_formatXYN (hk : k < 16) (hx : x < 16) (r : RegIx) (hn : n < 16) : yField (formatXYN k x r n) = r := by
  rw [Fin.ext_iff, yField_val, op3, formatXYN_toNat hk hx r.isLt hn]; omega

end

/-! ### The groups of the decode procedure (R94) -/

section
variable {op : Word}

theorem decodeOpcode_group0 (h : op1 op = 0x0) : decodeOpcode op = decodeGroup0 op := by simp only [decodeOpcode, h]

theorem decodeOpcode_group5 (h : op1 op = 0x5) : decodeOpcode op = decodeGroup5 op := by simp only [decodeOpcode, h]

theorem decodeOpcode_group8 (h : op1 op = 0x8) : decodeOpcode op = decodeGroup8 op := by simp only [decodeOpcode, h]

theorem decodeOpcode_groupE (h : op1 op = 0xE) : decodeOpcode op = decodeGroupE op := by simp only [decodeOpcode, h]

theorem decodeOpcode_groupF (h : op1 op = 0xF) : decodeOpcode op = decodeGroupF op := by simp only [decodeOpcode, h]

end

/-! ### Decoding what was encoded -/

theorem formatN_toNat {base n : Nat} (hb : base + n < 65536) : (formatN base n).toNat = base + n := by
  rw [formatN, BitVec.toNat_ofNat]; omega

theorem decodeOpcode_scd {n : Nat} (h : n < 16) : decodeOpcode (formatN 0x00C0 n) = some (.scd n) := by
  have hop : (formatN 0x00C0 n).toNat = 0x00C0 + n := formatN_toNat (by omega)
  have h4 : op4 (formatN 0x00C0 n) = n := by rw [op4, hop]; omega
  rw [decodeOpcode_group0 (by rw [op1, hop]; omega), decodeGroup0, if_pos (by omega), h4]

theorem decodeOpcode_scu {n : Nat} (h : n < 16) : decodeOpcode (formatN 0x00D0 n) = some (.scu n) := by
  have hop : (formatN 0x00D0 n).toNat = 0x00D0 + n := formatN_toNat (by omega)
  have h4 : op4 (formatN 0x00D0 n) = n := by rw [op4, hop]; omega
  rw [decodeOpcode_group0 (by rw [op1, hop]; omega), decodeGroup0, if_neg (by omega), if_pos (by omega), h4]

/-- The one word of a 2-byte instruction decodes to it. -/
theorem decodeOpcode_of_encodeWords {i : Instr} {op : Word} (hi : i.wellFormed = true) (he : encodeWords i = [op]) :
    decodeOpcode op = some i := by
  cases i with
  | nop | cls | ret | scr | scl | exit | low | high => cases he; rfl
  | scd n => cases he; exact decodeOpcode_scd (of_decide_eq_true hi)
  | scu n => cases he; exact decodeOpcode_scu (of_decide_eq_true hi)
  | jp a | call a | ldI a | jpV0 a => cases he; simp [decodeOpcode, op1_formatNNN, nnnField_formatNNN]
  | seImm x nn | sneImm x nn | ldImm x nn | addImm x nn | rnd x nn =>
    cases he; simp [decodeOpcode, op1_formatXNN, xField_formatXNN, nnField_formatXNN, byte_toNat_lt]
  | seReg x y | save x y | load x y =>
    cases he; simp [decodeOpcode, decodeGroup5, op1_formatXYN, op4_formatXYN, xField_formatXYN, yField_formatXYN]
  | ldReg x y | orReg x y | andReg x y | xorReg x y | addReg x y | subReg x y | shr x y | subn x y | shl x y =>
    cases he; simp [decodeOpcode, decodeGroup8, op1_formatXYN, op4_formatXYN, xField_formatXYN, yField_formatXYN]
  | sneReg x y => cases he; simp [decodeOpcode, op1_formatXYN, op4_formatXYN, xField_formatXYN, yField_formatXYN]
  | drw x y n =>
    have hn : n < 16 := of_decide_eq_true hi
    cases he; simp [decodeOpcode, op1_formatXYN, op4_formatXYN, xField_formatXYN, yField_formatXYN, hn]
  | skp x | sknp x =>
    cases he; simp [decodeOpcode, decodeGroupE, op1_formatXNN, nnField_formatXNN_toNat, xField_formatXNN]
  | ldILong w => cases he
  | plane m | audio m =>
    have hm : m < 16 := of_decide_eq_true hi
    cases he; simp [decodeOpcode, decodeGroupF, op1_formatXNN, nnField_formatXNN_toNat, op2_formatXNN, hm]
  | ldVxDt x | ldVxK x | ldDtVx x | ldStVx x | addI x | ldF x | ldHf x | bcd x | pitch x | ldMemVx x | ldVxMem x | ldRVx x | ldVxR x =>
    cases he; simp [decodeOpcode, decodeGroupF, op1_formatXNN, nnField_formatXNN_toNat, xField_formatXNN]

/-- 0xF000 is decided before, by the whole word. -/
theorem decodeOpcode_extMarker : decodeOpcode extMarker = none := by decide

/-- The front of some bytes read as a 2-byte instruction. -/
theorem decode_of_decodeOpcode {b0 b1 : Byte} {i : Instr} (rest : List Byte) (h : decodeOpcode (wordOfBytes b0 b1) = some i) :
    decode (b0 :: b1 :: rest) = .ok i rest := by
  have hne : wordOfBytes b0 b1 ≠ extMarker := fun he => by rw [he, decodeOpcode_extMarker] at h; cases h
  simp only [decode, if_neg hne, h]

/-- Every instruction but the 4-byte one is one word. -/
theorem encodeWords_cases (i : Instr) : (∃ w, i = .ldILong w) ∨ ∃ op, encodeWords i = [op] := by
  cases i with
  | ldILong w => exact .inl ⟨w, rfl⟩
  | _ => exact .inr ⟨_, rfl⟩

theorem encode_eq_of_encodeWords {i : Instr} {op : Word} (h : encodeWords i = [op]) : encode i = [highByte op, lowByte op] := by
  rw [encode, h]; rfl

theorem decode_ldILong {b0 b1 b2 b3 : Byte} (h : wordOfBytes b0 b1 = extMarker) (rest : List Byte) :
    decode (b0 :: b1 :: b2 :: b3 :: rest) = .ok (.ldILong (wordOfBytes b2 b3)) rest := by
  simp only [decode, if_pos h]

/-- Settles O1: a two-byte instruction's word decodes to it, and after 0xF000 the operand word is read back as it was written. -/
theorem decodeOfEncodeIsIdentity : Obligations.DecodeOfEncodeIsIdentity := by
  unfold Obligations.DecodeOfEncodeIsIdentity
  intro i rest hi
  obtain ⟨w, rfl⟩ | ⟨op, he⟩ := encodeWords_cases i
  · have := decode_ldILong (wordOfBytes_highByte_lowByte extMarker) (b2 := highByte w) (b3 := lowByte w) rest
    rwa [wordOfBytes_highByte_lowByte] at this
  · rw [encode_eq_of_encodeWords he]
    exact decode_of_decodeOpcode rest (by rw [wordOfBytes_highByte_lowByte]; exact decodeOpcode_of_encodeWords hi he)


/-! ### Encoding what was decoded -/

section
variable {op : Word} {k n nn : Nat}

theorem formatNNN_fields (h1 : op1 op = k) : formatNNN k (nnnField op) = op := by
  apply BitVec.eq_of_toNat_eq
  rw [formatNNN_toNat (h1 ▸ op1_lt op), nnnField_toNat]
  unfold op1 at h1; omega

theorem formatXNN_fields (h1 : op1 op = k) (hn : (nnField op).toNat = nn) : formatXNN k (op2 op) nn = op := by
  apply BitVec.eq_of_toNat_eq
  rw [formatXNN_toNat (h1 ▸ op1_lt op) (op2_lt op) (hn ▸ byte_toNat_lt _), word_eq_nibbles op, h1]
  rw [nnField_toNat] at hn
  unfold op3 op4; omega

theorem formatXYN_fields (h1 : op1 op = k) (h4 : op4 op = n) : formatXYN k (op2 op) (op3 op) n = op := by
  apply BitVec.eq_of_toNat_eq
  rw [formatXYN_toNat (h1 ▸ op1_lt op) (op2_lt op) (op3_lt op) (h4 ▸ op4_lt op), word_eq_nibbles op, h1, h4]

end

/-- `i` is an instruction an opcode word can hold, and its one word is `op`. -/
def IsWordOf (op : Word) (i : Instr) : Prop := i.wellFormed = true ∧ encodeWords i = [op]

section
variable {op : Word} {i : Instr}

theorem isWordOf_of_decodeGroup0 (h : decodeGroup0 op = some i) : IsWordOf op i := by
  unfold decodeGroup0 at h
  have word_eq {c : Nat} (hc : op.toNat = c) : BitVec.ofNat 16 c = op := hc ▸ BitVec.ofNat_toNat ..
  split at h
  · cases h
    refine ⟨decide_eq_true (op4_lt op), congrArg (· :: []) ?_⟩
    exact word_eq (by unfold op4; omega)
  · split at h
    · cases h
      refine ⟨decide_eq_true (op4_lt op), congrArg (· :: []) ?_⟩
      exact word_eq (by unfold op4; omega)
    · split at h <;> cases h <;> exact ⟨rfl, congrArg (· :: []) (word_eq ‹_›)⟩

theorem isWordOf_of_decodeGroup5 (h1 : op1 op = 0x5) (h : decodeGroup5 op = some i) : IsWordOf op i := by
  unfold decodeGroup5 at h
  split at h <;> cases h <;> refine ⟨rfl, congrArg (· :: []) ?_⟩ <;> rw [xField_val, yField_val, formatXYN_fields h1 ‹_›]

theorem isWordOf_of_decodeGroup8 (h1 : op1 op = 0x8) (h : decodeGroup8 op = some i) : IsWordOf op i := by
  unfold decodeGroup8 at h
  split at h <;> cases h <;> refine ⟨rfl, congrArg (· :: []) ?_⟩ <;> rw [xField_val, yField_val, formatXYN_fields h1 ‹_›]

theorem isWordOf_of_decodeGroupE (h1 : op1 op = 0xE) (h : decodeGroupE op = some i) : IsWordOf op i := by
  unfold decodeGroupE at h
  split at h <;> cases h <;> refine ⟨rfl, congrArg (· :: []) ?_⟩ <;> rw [xField_val, formatXNN_fields h1 ‹_›]

theorem isWordOf_of_decodeGroupF (h1 : op1 op = 0xF) (h : decodeGroupF op = some i) : IsWordOf op i := by
  unfold decodeGroupF at h
  have hx : op2 op < 16 := op2_lt op
  split at h <;> cases h <;>
    refine ⟨by simp [Instr.wellFormed, hx], congrArg (· :: []) ?_⟩ <;>
    simp only [xField_val, formatXNN_fields h1 ‹_›]

/-- What a word decodes to is well formed, and the word is its encoding: branch `h_k` is the one of the first nibble k − 1. -/
theorem isWordOf_of_decodeOpcode (h : decodeOpcode op = some i) : IsWordOf op i := by
  have h1lt := op1_lt op
  unfold decodeOpcode at h
  split at h
  case h_1 => exact isWordOf_of_decodeGroup0 h
  case h_6 h1 => exact isWordOf_of_decodeGroup5 h1 h
  case h_9 h1 => exact isWordOf_of_decodeGroup8 h1 h
  case h_10 h1 =>
    split at h <;> cases h
    exact ⟨rfl, congrArg (· :: []) (by rw [xField_val, yField_val, formatXYN_fields h1 ‹_›])⟩
  case h_14 h1 =>
    cases h
    exact ⟨decide_eq_true (op4_lt op), congrArg (· :: []) (by rw [xField_val, yField_val, formatXYN_fields h1 rfl])⟩
  case h_15 h1 => exact isWordOf_of_decodeGroupE h1 h
  case h_16 =>
    have h1 : op1 op = 0xF := by simp only [imp_false] at *; omega
    exact isWordOf_of_decodeGroupF h1 h
  case h_2 h1 | h_3 h1 | h_11 h1 | h_12 h1 => cases h; exact ⟨rfl, congrArg (· :: []) (formatNNN_fields h1)⟩
  all_goals
    cases h
    refine ⟨rfl, congrArg (· :: []) ?_⟩
    rw [xField_val, formatXNN_fields ‹_› rfl]

end

/-- All a successful read of the decoder can be: the 4-byte instruction, or one whose word stands in front. -/
theorem decode_ok_cases {bs rest : List Byte} {i : Instr} (h : decode bs = .ok i rest) :
    (∃ b0 b1 b2 b3, bs = b0 :: b1 :: b2 :: b3 :: rest ∧ wordOfBytes b0 b1 = extMarker ∧ i = .ldILong (wordOfBytes b2 b3)) ∨
    (∃ b0 b1, bs = b0 :: b1 :: rest ∧ wordOfBytes b0 b1 ≠ extMarker ∧ decodeOpcode (wordOfBytes b0 b1) = some i) := by
  unfold decode at h
  split at h
  · split at h
    · split at h <;> cases h
      exact .inl ⟨_, _, _, _, rfl, ‹_›, rfl⟩
    · split at h <;> cases h
      exact .inr ⟨_, _, rfl, ‹_›, ‹_›⟩
  · cases h

/-- Settles O2: each branch of the decoder reads the fields its format puts together again. -/
theorem encodeOfDecodeIsIdentity : Obligations.EncodeOfDecodeIsIdentity := by
  unfold Obligations.EncodeOfDecodeIsIdentity
  intro bs i rest h
  obtain ⟨b0, b1, b2, b3, rfl, hm, rfl⟩ | ⟨b0, b1, rfl, -, hd⟩ := decode_ok_cases h
  · refine ⟨rfl, ?_⟩
    simp [encode, encodeWords, bytesOfWords, ← hm]
  · obtain ⟨hwf, he⟩ := isWordOf_of_decodeOpcode hd
    exact ⟨hwf, by simp [encode_eq_of_encodeWords he]⟩

end Sys2Proof
end

section
/-! PROOFS. Encoding and decoding (30_encoding.md): the unknown words, the rows of the opcode table, the spec's examples. -/

namespace Sys2Proof

open Machine

section
variable {op : Word}

theorem decodeGroup0_eq_none_iff : decodeGroup0 op = none ↔
    op.toNat ∉ [0x0000, 0x00E0, 0x00EE, 0x00FB, 0x00FC, 0x00FD, 0x00FE, 0x00FF] ∧
      ¬(0x00C0 ≤ op.toNat ∧ op.toNat ≤ 0x00CF) ∧ ¬(0x00D0 ≤ op.toNat ∧ op.toNat ≤ 0x00DF) := by
  unfold decodeGroup0
  by_cases hC : op.toNat / 16 = 0x00C
  · rw [if_pos hC]; simp only [reduceCtorEq, false_iff]; omega
  · by_cases hD : op.toNat / 16 = 0x00D
    · rw [if_neg hC, if_pos hD]; simp only [reduceCtorEq, false_iff]; omega
    · rw [if_neg hC, if_neg hD]
      split <;> simp_all; omega

theorem decodeGroup5_eq_none_iff : decodeGroup5 op = none ↔ op4 op ∉ [0x0, 0x2, 0x3] := by
  unfold decodeGroup5; split <;> simp_all

theorem decodeGroup8_eq_none_iff : decodeGroup8 op = none ↔ op4 op ∈ [0x8, 0x9, 0xA, 0xB, 0xC, 0xD, 0xF] := by
  have := op4_lt op
  unfold decodeGroup8; split <;> simp_all; omega

theorem decodeGroupE_eq_none_iff : decodeGroupE op = none ↔ op.toNat % 256 ∉ [0x9E, 0xA1] := by
  rw [← nnField_toNat]; unfold decodeGroupE; split <;> simp_all

theorem decodeGroupF_eq_none_iff : decodeGroupF op = none ↔
    op.toNat % 256 ∉ [0x01, 0x02, 0x07, 0x0A, 0x15, 0x18, 0x1E, 0x29, 0x30, 0x33, 0x3A, 0x55, 0x65, 0x75, 0x85] := by
  rw [← nnField_toNat]; unfold decodeGroupF; split <;> simp_all

theorem ne_extMarker_iff : op ≠ extMarker ↔ op.toNat ≠ 0xF000 := BitVec.toNat_ne_iff_ne.symm

/-- The families of R95 are the words that the groups of the decode procedure reject. -/
theorem listedUnknown_iff_groups : listedUnknown op ↔
    (op1 op = 0x0 ∧ decodeGroup0 op = none) ∨ (op1 op = 0x5 ∧ decodeGroup5 op = none) ∨
    (op1 op = 0x8 ∧ decodeGroup8 op = none) ∨ (op1 op = 0x9 ∧ op4 op ≠ 0) ∨
    (op1 op = 0xE ∧ decodeGroupE op = none) ∨ (op1 op = 0xF ∧ op ≠ extMarker ∧ decodeGroupF op = none) := by
  have h0 : op1 op = 0 ↔ op.toNat < 0x1000 := by unfold op1; omega
  rw [decodeGroup0_eq_none_iff, decodeGroup5_eq_none_iff, decodeGroup8_eq_none_iff, decodeGroupE_eq_none_iff,
    decodeGroupF_eq_none_iff, ne_extMarker_iff, h0]
  rfl

/-- The words that R95 lists are those the decoder has no instruction for. -/
theorem listedUnknown_iff : listedUnknown op ↔ op ≠ extMarker ∧ decodeOpcode op = none := by
  have hmarker : op1 op ≠ 0xF → op ≠ extMarker := by rintro h rfl; exact h (by decide)
  have h1lt := op1_lt op
  rw [listedUnknown_iff_groups]
  unfold decodeOpcode
  split <;> simp_all
  intros; omega

end

/-- A rejection for an unknown word carries that word. -/
theorem decode_eq_unknownOpcode_iff {b0 b1 : Byte} {rest : List Byte} {w : Word} :
    decode (b0 :: b1 :: rest) = .reject (.unknownOpcode w) ↔
      w = wordOfBytes b0 b1 ∧ w ≠ extMarker ∧ decodeOpcode w = none := by
  by_cases hm : wordOfBytes b0 b1 = extMarker
  · refine iff_of_false (fun h => ?_) (by rintro ⟨rfl, hne, -⟩; exact hne hm)
    simp only [decode, if_pos hm] at h
    split at h <;> cases h
  · simp only [decode, if_neg hm]
    cases hd : decodeOpcode (wordOfBytes b0 b1) with
    | some i => exact iff_of_false (by simp) (by rintro ⟨rfl, -, hn⟩; rw [hd] at hn; cases hn)
    | none =>
      constructor
      · rintro ⟨⟩; exact ⟨rfl, hm, hd⟩
      · rintro ⟨rfl, -, -⟩; rfl

/-- Settles O4: group by group, the words the decode procedure rejects are the family R95 lists. -/
theorem unknownWordsAreExactlyTheListedOnes : Obligations.UnknownWordsAreExactlyTheListedOnes := by
  unfold Obligations.UnknownWordsAreExactlyTheListedOnes
  intro b0 b1 rest w
  rw [decode_eq_unknownOpcode_iff, listedUnknown_iff]

/-! ### The rows of the opcode table (R93) -/

theorem byte_and_FF (b : Byte) : b &&& 0xFF = b := BitVec.and_allOnes

theorem byte_and_F0 (b : Byte) : (b &&& 0xF0).toNat = b.toNat / 16 * 16 := by
  revert b; decide

theorem byte_and_0F (b : Byte) : (b &&& 0x0F).toNat = b.toNat % 16 := by
  rw [BitVec.toNat_and]; exact Nat.and_two_pow_sub_one_eq_mod _ 4

/-- A mask selects in the two bytes of a word apart. -/
theorem wordOfBytes_and (hi lo m m' : Byte) : wordOfBytes hi lo &&& wordOfBytes m m' = wordOfBytes (hi &&& m) (lo &&& m') :=
  BitVec.and_append

theorem word_and (op mask : Word) :
    op &&& mask = wordOfBytes (highByte op &&& highByte mask) (lowByte op &&& lowByte mask) := by
  rw [← wordOfBytes_and, wordOfBytes_highByte_lowByte, wordOfBytes_highByte_lowByte]

theorem highByte_toNat (w : Word) : (highByte w).toNat = w.toNat / 256 := by
  have := word_toNat_lt w
  rw [highByte, BitVec.toNat_ofNat]; omega

theorem lowByte_toNat (w : Word) : (lowByte w).toNat = w.toNat % 256 := BitVec.toNat_ofNat ..

section
variable (op : Word)

theorem and_FFFF : op &&& 0xFFFF = op := BitVec.and_allOnes

theorem and_FFF0 : (op &&& 0xFFF0).toNat = op.toNat / 16 * 16 := by
  rw [word_and, wordOfBytes_toNat, show highByte 0xFFF0 = 0xFF from rfl, show lowByte 0xFFF0 = 0xF0 from rfl, byte_and_FF,
    byte_and_F0, highByte_toNat, lowByte_toNat]
  omega

theorem and_F000 : (op &&& 0xF000).toNat = op1 op * 4096 := by
  rw [word_and, wordOfBytes_toNat, show highByte 0xF000 = 0xF0 from rfl, show lowByte 0xF000 = 0x00 from rfl, byte_and_F0,
    highByte_toNat, show lowByte op &&& 0x00 = 0#8 from BitVec.and_zero, BitVec.toNat_zero]
  unfold op1; omega

theorem and_F00F : (op &&& 0xF00F).toNat = op1 op * 4096 + op4 op := by
  rw [word_and, wordOfBytes_toNat, show highByte 0xF00F = 0xF0 from rfl, show lowByte 0xF00F = 0x0F from rfl, byte_and_F0,
    byte_and_0F, highByte_toNat, lowByte_toNat]
  unfold op1 op4; omega

theorem and_F0FF : (op &&& 0xF0FF).toNat = op1 op * 4096 + (nnField op).toNat := by
  rw [word_and, wordOfBytes_toNat, show highByte 0xF0FF = 0xF0 from rfl, show lowByte 0xF0FF = 0xFF from rfl, byte_and_F0,
    byte_and_FF, highByte_toNat, lowByte_toNat, nnField_toNat]
  unfold op1; omega

end

section
variable {op p : Word}

theorem op1_eq_and_op4_eq_of_and_F00F (h : op &&& 0xF00F = p) : op1 op = op1 p ∧ op4 op = op4 p := by
  have h' := congrArg BitVec.toNat h
  rw [and_F00F] at h'
  have := op4_lt op
  unfold op1 op4 at *; omega

theorem op1_eq_of_and_F000 (h : op &&& 0xF000 = p) : op1 op = op1 p := by
  have h' := congrArg BitVec.toNat h
  rw [and_F000] at h'
  unfold op1 at *; omega

theorem op1_eq_and_nnField_eq_of_and_F0FF (h : op &&& 0xF0FF = p) : op1 op = op1 p ∧ nnField op = nnField p := by
  have h' := congrArg BitVec.toNat h
  rw [and_F0FF] at h'
  rw [← BitVec.toNat_inj]
  have := nnField_toNat op
  have := nnField_toNat p
  unfold op1 at *; omega

/-! The row of what a word decodes to depends only on the bits that the row's mask selects. -/

theorem row_congr_FFF0 (h : op &&& 0xFFF0 = p) (hp : p.toNat / 16 ∈ [0x00C, 0x00D]) :
    (decodeOpcode op).map Instr.row = (decodeOpcode p).map Instr.row := by
  have h' := congrArg BitVec.toNat h
  rw [and_FFF0] at h'
  simp only [List.mem_cons, List.not_mem_nil, or_false] at hp
  rw [decodeOpcode_group0 (by unfold op1; omega), decodeOpcode_group0 (by unfold op1; omega)]
  have h16 : op.toNat / 16 = p.toNat / 16 := by omega
  obtain hp | hp := hp <;> simp [decodeGroup0, h16, hp, Instr.row]

theorem row_congr_F000 (h : op &&& 0xF000 = p) (hp : op1 p ∈ [0x1, 0x2, 0x3, 0x4, 0x6, 0x7, 0xA, 0xB, 0xC, 0xD]) :
    (decodeOpcode op).map Instr.row = (decodeOpcode p).map Instr.row := by
  have h1 := op1_eq_of_and_F000 h
  simp only [List.mem_cons, List.not_mem_nil, or_false] at hp
  obtain hp | hp | hp | hp | hp | hp | hp | hp | hp | hp := hp <;> simp [decodeOpcode, h1, hp, Instr.row]

theorem row_congr_F00F (h : op &&& 0xF00F = p) (hp : op1 p ∈ [0x5, 0x8, 0x9]) :
    (decodeOpcode op).map Instr.row = (decodeOpcode p).map Instr.row := by
  obtain ⟨h1, h4⟩ := op1_eq_and_op4_eq_of_and_F00F h
  simp only [List.mem_cons, List.not_mem_nil, or_false] at hp
  obtain hp | hp | hp := hp
  · rw [decodeOpcode_group5 (h1.trans hp), decodeOpcode_group5 hp, decodeGroup5, decodeGroup5, h4]
    split <;> rfl
  · rw [decodeOpcode_group8 (h1.trans hp), decodeOpcode_group8 hp, decodeGroup8, decodeGroup8, h4]
    split <;> rfl
  · simp only [decodeOpcode, h1, hp, h4]
    split <;> rfl

theorem row_congr_F0FF (h : op &&& 0xF0FF = p) (hp : op1 p ∈ [0xE, 0xF]) :
    (decodeOpcode op).map Instr.row = (decodeOpcode p).map Instr.row := by
  obtain ⟨h1, hnn⟩ := op1_eq_and_nnField_eq_of_and_F0FF h
  simp only [List.mem_cons, List.not_mem_nil, or_false] at hp
  obtain hp | hp := hp
  · rw [decodeOpcode_groupE (h1.trans hp), decodeOpcode_groupE hp, decodeGroupE, decodeGroupE, hnn]
    split <;> rfl
  · rw [decodeOpcode_groupF (h1.trans hp), decodeOpcode_groupF hp, decodeGroupF, decodeGroupF, hnn]
    split <;> rfl

end

/-- The five masks of the table, each with the first nibbles it goes with. -/
theorem opcodeTable_masks : ∀ r ∈ opcodeTable,
    r.mask = 0xFFFF ∨
    (r.mask = 0xFFF0 ∧ r.pattern.toNat / 16 ∈ [0x00C, 0x00D]) ∨
    (r.mask = 0xF000 ∧ op1 r.pattern ∈ [0x1, 0x2, 0x3, 0x4, 0x6, 0x7, 0xA, 0xB, 0xC, 0xD]) ∨
    (r.mask = 0xF00F ∧ op1 r.pattern ∈ [0x5, 0x8, 0x9]) ∨
    (r.mask = 0xF0FF ∧ op1 r.pattern ∈ [0xE, 0xF]) := by decide

/-- The word of a row with every operand 0 decodes to that row. -/
theorem decodeOpcode_pattern_row : ∀ r ∈ opcodeTable, r.pattern ≠ extMarker →
    (decodeOpcode r.pattern).map Instr.row = some r.row := by decide

theorem pattern_eq_extMarker : ∀ r ∈ opcodeTable, r.pattern = extMarker → r.mask = 0xFFFF := by decide

/-- A word that matches a row decodes to an instruction of that row. -/
theorem decodeOpcode_row_of_match {op : Word} {r : OpcodeRow} (hr : r ∈ opcodeTable) (hop : op ≠ extMarker)
    (h : op &&& r.mask = r.pattern) : (decodeOpcode op).map Instr.row = some r.row := by
  have hpat : r.pattern ≠ extMarker := fun hp => by
    rw [pattern_eq_extMarker r hr hp, and_FFFF] at h
    exact hop (h.trans hp)
  rw [← decodeOpcode_pattern_row r hr hpat]
  obtain hm | ⟨hm, hp⟩ | ⟨hm, hp⟩ | ⟨hm, hp⟩ | ⟨hm, hp⟩ := opcodeTable_masks r hr <;> rw [hm] at h
  · rw [← h, and_FFFF]
  · exact row_congr_FFF0 h hp
  · exact row_congr_F000 h hp
  · exact row_congr_F00F h hp
  · exact row_congr_F0FF h hp

/-! Each format holds its fixed bits where the row's mask selects them. -/

section
variable {k x y n nn : Nat}

theorem formatNNN_and_F000 (hk : k < 16) (a : Addr12) : formatNNN k a &&& 0xF000 = BitVec.ofNat 16 (k * 4096) := by
  apply BitVec.eq_of_toNat_eq
  rw [and_F000, op1_formatNNN hk, BitVec.toNat_ofNat]; omega

theorem formatXNN_and_F000 (hk : k < 16) (hx : x < 16) (hn : nn < 256) :
    formatXNN k x nn &&& 0xF000 = BitVec.ofNat 16 (k * 4096) := by
  apply BitVec.eq_of_toNat_eq
  rw [and_F000, op1_formatXNN hk hx hn, BitVec.toNat_ofNat]; omega

theorem formatXNN_and_F0FF (hk : k < 16) (hx : x < 16) (hn : nn < 256) :
    formatXNN k x nn &&& 0xF0FF = BitVec.ofNat 16 (k * 4096 + nn) := by
  apply BitVec.eq_of_toNat_eq
  rw [and_F0FF, op1_formatXNN hk hx hn, nnField_formatXNN_toNat hk hx hn, BitVec.toNat_ofNat]; omega

theorem formatXYN_and_F000 (hk : k < 16) (hx : x < 16) (hy : y < 16) (hn : n < 16) :
    formatXYN k x y n &&& 0xF000 = BitVec.ofNat 16 (k * 4096) := by
  apply BitVec.eq_of_toNat_eq
  rw [and_F000, op1_formatXYN hk hx hy hn, BitVec.toNat_ofNat]; omega

theorem formatXYN_and_F00F (hk : k < 16) (hx : x < 16) (hy : y < 16) (hn : n < 16) :
    formatXYN k x y n &&& 0xF00F = BitVec.ofNat 16 (k * 4096 + n) := by
  apply BitVec.eq_of_toNat_eq
  rw [and_F00F, op1_formatXYN hk hx hy hn, op4_formatXYN hk hx hy hn, BitVec.toNat_ofNat]; omega

theorem formatN_and_FFF0 (k : Nat) (hk : k < 4096) (hn : n < 16) : formatN (k * 16) n &&& 0xFFF0 = BitVec.ofNat 16 (k * 16) := by
  apply BitVec.eq_of_toNat_eq
  rw [and_FFF0, formatN_toNat (by omega), BitVec.toNat_ofNat]; omega

end

/-- The word of an instruction matches the row of the table that the instruction belongs to. -/
theorem matches_row_of_isWordOf {op : Word} {i : Instr} (h : IsWordOf op i) :
    ∃ r, opcodeTable[i.row - 1]? = some r ∧ op &&& r.mask = r.pattern := by
  obtain ⟨hwf, he⟩ := h
  cases i with
  | nop | cls | ret | scr | scl | exit | low | high => cases he; exact ⟨_, rfl, rfl⟩
  | scd n => cases he; exact ⟨_, rfl, formatN_and_FFF0 0x00C (by decide) (of_decide_eq_true hwf)⟩
  | scu n => cases he; exact ⟨_, rfl, formatN_and_FFF0 0x00D (by decide) (of_decide_eq_true hwf)⟩
  | jp a | call a | ldI a | jpV0 a => cases he; exact ⟨_, rfl, formatNNN_and_F000 (by decide) a⟩
  | seImm x nn | sneImm x nn | ldImm x nn | addImm x nn | rnd x nn =>
    cases he; exact ⟨_, rfl, formatXNN_and_F000 (by decide) x.isLt nn.isLt⟩
  | seReg x y | save x y | load x y | ldReg x y | orReg x y | andReg x y | xorReg x y | addReg x y | subReg x y
  | shr x y | subn x y | shl x y | sneReg x y =>
    cases he; exact ⟨_, rfl, formatXYN_and_F00F (by decide) x.isLt y.isLt (by decide)⟩
  | drw x y n => cases he; exact ⟨_, rfl, formatXYN_and_F000 (by decide) x.isLt y.isLt (of_decide_eq_true hwf)⟩
  | ldILong w => cases he
  | plane m | audio m => cases he; exact ⟨_, rfl, formatXNN_and_F0FF (by decide) (of_decide_eq_true hwf) (by decide)⟩
  | skp x | sknp x | ldVxDt x | ldVxK x | ldDtVx x | ldStVx x | addI x | ldF x | ldHf x | bcd x | pitch x | ldMemVx x
  | ldVxMem x | ldRVx x | ldVxR x => cases he; exact ⟨_, rfl, formatXNN_and_F0FF (by decide) x.isLt (by decide)⟩

/-- The row numbers count the table. -/
theorem getElem?_opcodeTable_row : ∀ r ∈ opcodeTable, opcodeTable[r.row - 1]? = some r := by decide

/-- Away from the 4-byte instruction, a word decodes to a row exactly when it matches the row. -/
theorem decodeOpcode_row_iff {op : Word} {r : OpcodeRow} (hr : r ∈ opcodeTable) (hop : op ≠ extMarker) :
    (∃ i, decodeOpcode op = some i ∧ i.row = r.row) ↔ op &&& r.mask = r.pattern := by
  constructor
  · rintro ⟨i, hd, hrow⟩
    obtain ⟨r', hr', h⟩ := matches_row_of_isWordOf (isWordOf_of_decodeOpcode hd)
    rw [hrow, getElem?_opcodeTable_row r hr] at hr'
    cases hr'
    exact h
  · intro h
    simpa using decodeOpcode_row_of_match hr hop h

/-- The one word of the 4-byte instruction matches row 36 and no other. -/
theorem extMarker_matches_iff : ∀ r ∈ opcodeTable, r.row = 36 ↔ extMarker &&& r.mask = r.pattern := by decide

/-- Two rows whose patterns differ in a bit that both masks select are disjoint. -/
theorem disjoint_of_and_ne {a b : OpcodeRow} (h : a.pattern &&& b.mask ≠ b.pattern &&& a.mask) (op : Word) :
    ¬(op &&& a.mask = a.pattern ∧ op &&& b.mask = b.pattern) := by
  rintro ⟨ha, hb⟩
  exact h (by rw [← ha, ← hb, BitVec.and_assoc, BitVec.and_assoc, BitVec.and_comm a.mask])

/-- Settles O3: the decoded row depends on the bits its mask selects, the encoder puts the row's pattern there, and any two
patterns differ in a bit that both rows fix. -/
theorem decodeFollowsTheOpcodeTable : Obligations.DecodeFollowsTheOpcodeTable := by
  unfold Obligations.DecodeFollowsTheOpcodeTable
  refine ⟨fun b0 b1 b2 b3 rest r hr => ?_, ?_⟩
  · by_cases hm : wordOfBytes b0 b1 = extMarker
    · rw [decode_ldILong hm, hm, ← extMarker_matches_iff r hr]
      simp [Instr.row, eq_comm]
    · rw [← decodeOpcode_row_iff hr hm]
      simp only [decode, if_neg hm]
      split <;> simp_all
  · have hne : opcodeTable.Pairwise fun a b => a.pattern &&& b.mask ≠ b.pattern &&& a.mask := by decide
    exact hne.imp fun h op => disjoint_of_and_ne h op

/-- Settles O5: each word is written out, so the decoder computes. -/
theorem wordsOfTheSpecsExamplesDecode : Obligations.WordsOfTheSpecsExamplesDecode := by
  unfold Obligations.WordsOfTheSpecsExamplesDecode
  decide

end Sys2Proof
end

section
/-! PROOFS. What an instruction can do, said once: its aborts with their causes (R242), and what it leaves unchanged when it completes
(the column "written by" of R20). -/

namespace Sys2Proof.Machine

/-- The causes of the table of R242, each with its reason. -/
def AbortCause (i : Instr) (s : State) (r : AbortReason) : Prop :=
  (r = .stackUnderflow ∧ i = .ret ∧ s.stack = []) ∨
  (r = .keyIndexOutOfRange ∧ ∃ x, (i = .skp x ∨ i = .sknp x) ∧ 15 < (s.reg x).toNat) ∨
  (r = .memoryOutOfRange ∧ skipTaken i s ∧ 4094 < s.pc.toNat) ∨
  (r = .memoryOutOfRange ∧ dataBytes i s ≠ 0 ∧ 4096 < s.i.toNat + dataBytes i s)

/-- What an instruction that completes leaves as it was: an element of the state that changed is one the instruction is listed for
(R20, R24), and the notifications are those of R246. -/
structure ExecFrame (i : Instr) (s t : State) : Prop where
  halt : t.halt = s.halt
  running : t.running = s.running
  inp : t.inp = s.inp
  inputCount : t.inputCount = s.inputCount
  out : t.out = s.out ++ emittedBy i
  v : t.v ≠ s.v → writesV i = true
  pc : t.pc ≠ s.pc → setsPc i = true
  index : t.i ≠ s.i → writesI i = true
  dt : t.dt ≠ s.dt → ∃ x, i = .ldDtVx x
  st : t.st ≠ s.st → ∃ x, i = .ldStVx x
  stack : t.stack ≠ s.stack → i = .ret ∨ ∃ a, i = .call a
  mem : t.mem ≠ s.mem → (∃ x, i = .bcd x) ∨ (∃ x, i = .ldMemVx x) ∨ ∃ x y, i = .save x y
  res : t.res ≠ s.res → i = .low ∨ i = .high
  planes : t.plane0 ≠ s.plane0 ∨ t.plane1 ≠ s.plane1 → writesPlanes i = true
  activePlane : t.activePlane ≠ s.activePlane → ∃ m, i = .plane m
  waiting : t.waiting ≠ s.waiting → ∃ x, i = .ldVxK x
  audioBuffer : t.audioBuffer ≠ s.audioBuffer → (∃ u, i = .audio u) ∨ ∃ x, i = .ldStVx x
  bufferPitch : t.bufferPitch ≠ s.bufferPitch → ∃ x, i = .pitch x
  rpl : t.rpl ≠ s.rpl → ∃ x, i = .ldRVx x
  exitReq : t.exitReq ≠ s.exitReq → i = .exit

/-! ### The skips (R134 to R143) -/

section
variable {s t : State}

/-- All a conditional skip can do: nothing, pass two or four bytes, or abort (R134, D30). -/
theorem skipIf_inv {c : Bool} (h : skipIf c s = .next t) :
    (c = false ∧ t = s) ∨
    (c = true ∧ s.pc.toNat ≤ 4094 ∧ (t = { s with pc := s.pc + 2 } ∨ t = { s with pc := s.pc + 4 })) ∨
    (c = true ∧ 4094 < s.pc.toNat ∧ t = s.raiseAbort .memoryOutOfRange) := by
  cases c with
  | false => cases h; exact .inl ⟨rfl, rfl⟩
  | true =>
    rw [skipIf_true] at h
    obtain ⟨hpc, -, e⟩ | ⟨hpc, -, e⟩ | ⟨hpc, e⟩ := skip_cases s <;> rw [e] at h <;> cases h
    · exact .inr (.inl ⟨rfl, hpc, .inr rfl⟩)
    · exact .inr (.inl ⟨rfl, hpc, .inl rfl⟩)
    · exact .inr (.inr ⟨rfl, hpc, rfl⟩)

/-- A register above 15 names no key (R141, D11). -/
theorem keyIndex_eq_none {b : Byte} (h : 15 < b.toNat) : keyIndex b = none := dif_neg (by omega)

/-- The key a register value of at most 15 names (R141). -/
theorem keyIndex_eq_some {b : Byte} {k : Fin 16} (h : k.val = b.toNat) : keyIndex b = some k := by
  rw [keyIndex, dif_pos (h ▸ k.isLt)]
  exact congrArg some (Fin.ext h.symm)

theorem exec_skp_of_no_key {x : RegIx} (h : 15 < (s.reg x).toNat) : exec (.skp x) s = abort .keyIndexOutOfRange s := by
  simp only [exec, execSkp, keyIndex_eq_none h]

theorem exec_sknp_of_no_key {x : RegIx} (h : 15 < (s.reg x).toNat) : exec (.sknp x) s = abort .keyIndexOutOfRange s := by
  simp only [exec, execSknp, keyIndex_eq_none h]

theorem exec_skp_of_key {x : RegIx} {k : Fin 16} (h : k.val = (s.reg x).toNat) : exec (.skp x) s = skipIf (s.keyDown k) s := by
  simp only [exec, execSkp, keyIndex_eq_some h]

theorem exec_sknp_of_key {x : RegIx} {k : Fin 16} (h : k.val = (s.reg x).toNat) : exec (.sknp x) s = skipIf (!s.keyDown k) s := by
  simp only [exec, execSknp, keyIndex_eq_some h]

/-- A register value names no key or one. -/
theorem key_cases (b : Byte) : 15 < b.toNat ∨ ∃ k : Fin 16, k.val = b.toNat :=
  (Nat.lt_or_ge 15 b.toNat).imp_right fun h => ⟨⟨b.toNat, Nat.lt_succ_of_le h⟩, rfl⟩

/-- All a skip instruction can do: abort for the register that names no key, or what a conditional skip on its condition does. -/
theorem exec_skip_inv {i : Instr} (hi : isSkip i = true) (h : exec i s = .next t) :
    (∃ x, (i = .skp x ∨ i = .sknp x) ∧ 15 < (s.reg x).toNat ∧ t = s.raiseAbort .keyIndexOutOfRange) ∨
    ∃ c, (c = true → skipTaken i s) ∧ skipIf c s = .next t := by
  cases i with
  | seImm x nn | seReg x y => exact .inr ⟨_, fun hc => eq_of_beq hc, h⟩
  | sneImm x nn | sneReg x y => exact .inr ⟨_, fun hc => bne_iff_ne.mp hc, h⟩
  | skp x =>
    obtain hx | ⟨k, hk⟩ := key_cases (s.reg x)
    · rw [exec_skp_of_no_key hx] at h
      cases h; exact .inl ⟨x, .inl rfl, hx, rfl⟩
    · exact .inr ⟨_, fun hc => ⟨k, hk, hc⟩, exec_skp_of_key hk ▸ h⟩
  | sknp x =>
    obtain hx | ⟨k, hk⟩ := key_cases (s.reg x)
    · rw [exec_sknp_of_no_key hx] at h
      cases h; exact .inl ⟨x, .inr rfl, hx, rfl⟩
    · exact .inr ⟨_, fun hc => ⟨k, hk, Bool.not_eq_true' _ ▸ hc⟩, exec_sknp_of_key hk ▸ h⟩
  | _ => cases hi

/-! ### The return (R130) -/

theorem exec_ret_of_empty (h : s.stack = []) : exec .ret s = abort .stackUnderflow s := by
  have hpop : s.pop = none := by simp [State.pop, h]
  simp only [exec, execRet, hpop]

theorem exec_ret_of_append {rest : List Word} {w : Word} (h : s.stack = rest ++ [w]) :
    exec .ret s = .next { s with pc := w, stack := rest } := by
  have hpop : s.pop = some (w, { s with stack := rest }) := by simp [State.pop, h]
  simp only [exec, execRet, hpop]

end

theorem emittedBy_of_isSkip {i : Instr} (hi : isSkip i = true) : emittedBy i = [] := by
  cases i with
  | low | high | ldVxK | audio | exit => cases hi
  | _ => rfl

theorem isSkip_of_skipTaken {i : Instr} {s : State} (h : skipTaken i s) : isSkip i = true := by
  cases i with
  | seImm | sneImm | seReg | sneReg | skp | sknp => rfl
  | _ => exact h.elim

/-- A skip that changes pc alone has its frame. -/
theorem execFrame_of_skip {i : Instr} (hi : isSkip i = true) (s : State) (w : Word) : ExecFrame i s { s with pc := w } := by
  constructor <;> simp [emittedBy_of_isSkip hi, setsPc, hi]

/-! ### All that an instruction can do -/

theorem withRange_inv {a n : Nat} {s t u : State} (h : withRange a n s (.next u) = .next t) :
    t = u ∨ (n ≠ 0 ∧ 4096 < a + n ∧ t = s.raiseAbort .memoryOutOfRange) := by
  obtain ⟨-, e⟩ | ⟨⟨hn, ha⟩, e⟩ := withRange_cases a n s (.next u) <;> rw [e] at h <;> cases h
  · exact .inl rfl
  · exact .inr ⟨hn, ha, rfl⟩

/-- An instruction whose bytes at I are range-checked: its abort has the cause of R242, and otherwise it does what follows the check. -/
theorem exec_range_inv {i : Instr} {s t u : State} (hf : ExecFrame i s u)
    (h : withRange s.i.toNat (dataBytes i s) s (.next u) = .next t) :
    (∃ r, t = s.raiseAbort r ∧ AbortCause i s r) ∨ ExecFrame i s t := by
  obtain rfl | ⟨hn, ha, rfl⟩ := withRange_inv h
  · exact .inr hf
  · exact .inl ⟨_, rfl, .inr (.inr (.inr ⟨rfl, hn, ha⟩))⟩

/-- An instruction aborts, for a cause of R242, or completes and changes only what it is listed for (R241, R242, R20). -/
theorem exec_inv {i : Instr} {s t : State} (h : exec i s = .next t) :
    (∃ r, t = s.raiseAbort r ∧ AbortCause i s r) ∨ ExecFrame i s t := by
  cases i with
  | seImm | sneImm | seReg | sneReg | skp | sknp =>
    obtain ⟨x, hx, hlt, rfl⟩ | ⟨c, hc, h⟩ := exec_skip_inv rfl h
    · exact .inl ⟨_, rfl, .inr (.inl ⟨rfl, x, hx, hlt⟩)⟩
    obtain ⟨-, rfl⟩ | ⟨-, -, rfl | rfl⟩ | ⟨hc', hpc, rfl⟩ := skipIf_inv h
    · exact .inr (execFrame_of_skip rfl t t.pc)
    · exact .inr (execFrame_of_skip rfl s _)
    · exact .inr (execFrame_of_skip rfl s _)
    · exact .inl ⟨_, rfl, .inr (.inr (.inl ⟨rfl, hc hc', hpc⟩))⟩
  | ret =>
    obtain ⟨hs, -⟩ | ⟨rest, w, hs, -⟩ := pop_cases s
    · rw [exec_ret_of_empty hs] at h
      cases h
      exact .inl ⟨_, rfl, .inl ⟨rfl, rfl, hs⟩⟩
    · rw [exec_ret_of_append hs] at h
      cases h
      exact .inr (by constructor <;> simp [emittedBy, setsPc, Instr.row])
  | bcd x | save x y => exact exec_range_inv (by constructor <;> simp [emittedBy]) h
  | ldVxMem x | load x y => exact exec_range_inv (by constructor <;> simp [incrementI_eq, emittedBy, writesV, writesI, Instr.row]) h
  | ldMemVx x => exact exec_range_inv (by constructor <;> simp [incrementI_eq, emittedBy, writesI, Instr.row]) h
  | audio u => exact exec_range_inv (by constructor <;> simp [emittedBy]) h
  | drw x y n => exact exec_range_inv (by constructor <;> simp [emittedBy, writesV, writesPlanes, Instr.row]) h
  | orReg | andReg | xorReg =>
    cases h; exact .inr (by constructor <;> simp [forceVfZero_eq, emittedBy, writesV, Instr.row])
  | _ =>
    cases h
    exact .inr (by constructor <;> simp [emittedBy, writesV, writesI, writesPlanes, setsPc, Instr.row])

/-- Settles O23: an instruction that completes keeps the halt, and every abort has its cause. -/
theorem abortsHaveNoOtherCauses : Obligations.AbortsHaveNoOtherCauses := by
  unfold Obligations.AbortsHaveNoOtherCauses
  intro i s t r hs h ht
  obtain ⟨r', rfl, hcause⟩ | hf := exec_inv h
  · rw [raiseAbort_halt, Option.some.injEq] at ht
    exact ht ▸ hcause
  · rw [hf.halt, hs] at ht
    cases ht

/-- The instructions that can abort (R242). -/
theorem AbortCause.instruction {i : Instr} {s : State} {r : AbortReason} (h : AbortCause i s r) :
    i = .ret ∨ isSkip i = true ∨ dataBytes i s ≠ 0 := by
  obtain ⟨-, hi, -⟩ | ⟨-, x, hi | hi, -⟩ | ⟨-, hskip, -⟩ | ⟨-, hn, -⟩ := h
  · exact .inl hi
  · exact .inr (.inl (hi ▸ rfl))
  · exact .inr (.inl (hi ▸ rfl))
  · exact .inr (.inl (isSkip_of_skipTaken hskip))
  · exact .inr (.inr hn)

/-- Settles O24: an abort only sets the halt, and an instruction that completes has its frame. -/
theorem stateIsWrittenOnlyByTheListedInstructions : Obligations.StateIsWrittenOnlyByTheListedInstructions := by
  unfold Obligations.StateIsWrittenOnlyByTheListedInstructions
  intro i s t h
  obtain ⟨r, rfl, hcause⟩ | hf := exec_inv h
  · exact ⟨fun hne => absurd rfl hne, fun _ => hcause.instruction, rfl, rfl, fun hh => nomatch hh⟩
  · exact ⟨hf.rpl, fun hne => absurd hf.halt hne, hf.inp, hf.inputCount, fun _ => ⟨hf.v, hf.pc, hf.index, hf.dt, hf.st, hf.stack,
      hf.mem, hf.res, hf.planes, hf.activePlane, hf.waiting, hf.audioBuffer, hf.bufferPitch, hf.exitReq, hf.running⟩⟩

/-- Settles O26: an abort emits nothing, and an instruction that completes emits what the table gives it. -/
theorem notificationsAreThoseOfTheTable : Obligations.NotificationsAreThoseOfTheTable := by
  unfold Obligations.NotificationsAreThoseOfTheTable
  intro i s t hs h
  obtain ⟨r, rfl, -⟩ | hf := exec_inv h
  · rw [raiseAbort_out, raiseAbort_halt, if_neg (Option.some_ne_none r), List.append_nil]
  · rw [if_pos (hf.halt.trans hs), hf.out]

/-! ### What no instruction reads (R27, R34, R35, R37) -/

/-- `u` is `t` but for the elements that no instruction reads. -/
def SameButPublished (t u : State) : Prop :=
  ∃ st bp ab e, u = { t with st := st, bufferPitch := bp, audioBuffer := ab, exitReq := e }

/-- Whenever one of two instructions or steps answers a next state, the other answers one that differs at most in what is published. -/
def AnswersAlike (o o' : Result) : Prop := ∀ t, o = .next t → ∃ u, o' = .next u ∧ SameButPublished t u

section
variable {s s' : State}

theorem answersAlike_next (h : SameButPublished s s') : AnswersAlike (.next s) (.next s') := by
  rintro t ⟨⟩
  exact ⟨s', rfl, h⟩

theorem answersAlike_abort (h : SameButPublished s s') (r : AbortReason) : AnswersAlike (abort r s) (abort r s') := by
  obtain ⟨st, bp, ab, e, rfl⟩ := h
  exact answersAlike_next ⟨st, bp, ab, e, rfl⟩

/-- The range check reads the address only. -/
theorem answersAlike_withRange (h : SameButPublished s s') {k k' : Result} (hk : AnswersAlike k k') (a n : Nat) :
    AnswersAlike (withRange a n s k) (withRange a n s' k') := by
  unfold withRange
  split
  · exact hk
  · exact answersAlike_abort h _

/-- A skip reads pc and memory only. -/
theorem answersAlike_skipIf (h : SameButPublished s s') (c : Bool) : AnswersAlike (skipIf c s) (skipIf c s') := by
  cases c with
  | false => exact answersAlike_next h
  | true =>
    obtain ⟨st, bp, ab, e, rfl⟩ := h
    rw [skipIf_true, skipIf_true, skip, skip]
    cases s.mem.readWord s.pc.toNat with
    | some w => exact answersAlike_next ⟨st, bp, ab, e, rfl⟩
    | none => exact answersAlike_next ⟨st, bp, ab, e, rfl⟩

/-- No instruction reads what is published. -/
theorem answersAlike_exec (h : SameButPublished s s') (i : Instr) : AnswersAlike (exec i s) (exec i s') := by
  obtain ⟨st, bp, ab, e, rfl⟩ := h
  have hs : SameButPublished s { s with st := st, bufferPitch := bp, audioBuffer := ab, exitReq := e } := ⟨st, bp, ab, e, rfl⟩
  cases i with
  | seImm | sneImm | seReg | sneReg => exact answersAlike_skipIf hs _
  | skp x =>
    obtain hx | ⟨k, hk⟩ := key_cases (s.reg x)
    · rw [exec_skp_of_no_key hx, exec_skp_of_no_key (x := x) (by exact hx)]
      exact answersAlike_abort hs _
    · rw [exec_skp_of_key hk, exec_skp_of_key (x := x) (by exact hk)]
      exact answersAlike_skipIf hs _
  | sknp x =>
    obtain hx | ⟨k, hk⟩ := key_cases (s.reg x)
    · rw [exec_sknp_of_no_key hx, exec_sknp_of_no_key (x := x) (by exact hx)]
      exact answersAlike_abort hs _
    · rw [exec_sknp_of_key hk, exec_sknp_of_key (x := x) (by exact hk)]
      exact answersAlike_skipIf hs _
  | ret =>
    obtain ⟨hst, -⟩ | ⟨rest, w, hst, -⟩ := pop_cases s
    · rw [exec_ret_of_empty hst, exec_ret_of_empty (by exact hst)]
      exact answersAlike_abort hs _
    · rw [exec_ret_of_append hst, exec_ret_of_append (by exact hst)]
      exact answersAlike_next ⟨_, _, _, _, rfl⟩
  | bcd | save | load | drw | audio => exact answersAlike_withRange hs (answersAlike_next ⟨_, _, _, _, rfl⟩) _ _
  | ldMemVx x | ldVxMem x =>
    refine answersAlike_withRange hs (answersAlike_next ?_) _ _
    rw [incrementI_eq, incrementI_eq]
    exact ⟨_, _, _, _, rfl⟩
  | orReg | andReg | xorReg =>
    refine answersAlike_next ?_
    rw [forceVfZero_eq, forceVfZero_eq]
    exact ⟨_, _, _, _, rfl⟩
  | _ => exact answersAlike_next ⟨_, _, _, _, rfl⟩

end

/-- Settles O27: the answers with what is published changed and unchanged differ in what is published alone. -/
theorem publishedOnlyStateIsNeverRead : Obligations.PublishedOnlyStateIsNeverRead := by
  unfold Obligations.PublishedOnlyStateIsNeverRead
  intro i s t st' bp' ab' e' h
  obtain ⟨u, hu, st2, bp2, ab2, e2, rfl⟩ := answersAlike_exec ⟨st', bp', ab', e', rfl⟩ i t h
  exact ⟨st2, bp2, ab2, e2, hu⟩

end Sys2Proof.Machine
end

section
/-! PROOFS. The execution cycle (40_execution_cycle.md): the fetch, the key-wait poll, Tick and the frame. -/

namespace Sys2Proof.Machine

/-- Settles O6: a Step that fetches runs what the fetch decodes on the state after the fetch's `pc + 2`. -/
theorem stepRunsTheDecodedInstruction : Obligations.StepRunsTheDecodedInstruction := by
  unfold Obligations.StepRunsTheDecodedInstruction
  intro s i rest hf hd
  exact step_of_decode hf hd

theorem encode_length_le (i : Instr) : (encode i).length ≤ 4 := by
  obtain ⟨w, rfl⟩ | ⟨op, he⟩ := encodeWords_cases i
  · exact Nat.le_refl 4
  · simp [encode_eq_of_encodeWords he]

/-- Settles O7: the fetch sees the encoding first, and the decoder reads the instruction back from it, whatever bytes follow. -/
theorem stepRunsTheInstructionInMemory : Obligations.StepRunsTheInstructionInMemory := by
  unfold Obligations.StepRunsTheInstructionInMemory
  intro s i hf hwf hp
  obtain ⟨rest, hw⟩ := window_of_holdsAtPc hp (encode_length_le i)
  exact step_of_decode hf (hw ▸ decodeOfEncodeIsIdentity i rest hwf)

/-! ### Fetches that run no instruction (R116, R119, R171) -/

section
variable {s : State}

theorem fetchExecute_of_noOpcodeWord (hd : decode (s.mem.window s.pc.toNat 4) = .reject .noOpcodeWord) :
    s.fetchExecute = abort .memoryOutOfRange s := by
  simp only [State.fetchExecute, hd]

theorem fetchExecute_of_noOperandWord (hd : decode (s.mem.window s.pc.toNat 4) = .reject .noOperandWord) :
    s.fetchExecute = abort .memoryOutOfRange s.advance := by
  simp only [State.fetchExecute, hd]

theorem fetchExecute_of_unknownOpcode {op : Word} (hd : decode (s.mem.window s.pc.toNat 4) = .reject (.unknownOpcode op)) :
    s.fetchExecute = execUnknown op s.advance := by
  simp only [State.fetchExecute, hd]

end

/-- An abort seen from the step: the host's next input changes neither the reason nor the flag slot. -/
theorem aborts_thenNextInput {s u : State} (hu : u.rpl = s.rpl) (r : AbortReason) : Aborts s (thenNextInput (abort r u)) r :=
  ⟨(u.raiseAbort r).nextInput, rfl, rfl, hu⟩

/-- Settles O8: above 4094 the fetch sees fewer than two bytes. -/
theorem fetchBeyondMemoryAborts : Obligations.FetchBeyondMemoryAborts := by
  unfold Obligations.FetchBeyondMemoryAborts
  intro s hf hpc
  have hd : decode (s.clearOut.mem.window s.clearOut.pc.toNat 4) = .reject .noOpcodeWord := by
    rw [decode_eq_noOpcodeWord, Memory.window_length, clearOut_pc]; omega
  rw [step_of_fetching hf, fetchExecute_of_noOpcodeWord hd]
  exact aborts_thenNextInput (clearOut_rpl s) _

/-- Settles O9: the decoder rejects the word under its own name, and what follows is one notification. -/
theorem unknownOpcodeNotifiesAndContinues : Obligations.UnknownOpcodeNotifiesAndContinues := by
  unfold Obligations.UnknownOpcodeNotifiesAndContinues
  intro s op hf hp hop
  obtain ⟨rest, hw⟩ := window_of_holdsAtPc hp (by simp)
  have hd : decode (s.clearOut.mem.window s.clearOut.pc.toNat 4) = .reject (.unknownOpcode op) := by
    rw [clearOut_mem, clearOut_pc, hw]
    exact (unknownWordsAreExactlyTheListedOnes _ _ rest op).mpr ⟨(wordOfBytes_highByte_lowByte op).symm, hop⟩
  rw [step_of_fetching hf, fetchExecute_of_unknownOpcode hd]
  exact ⟨_, rfl, rfl, rfl⟩

/-! ### Tick, and the machine that is not live (R111, R113) -/

theorem tick_of_not_live {s : State} (h : s.live = false) : s.tick = s := by simp [State.tick, h]

/-- An event that leaves the block as it is, seen from the step. -/
theorem completes_of_react_eq_self {s : State} (h : s.clearOut.react s.inp.event = .next s.clearOut) :
    Completes (step s) fun t => t.out = [] ∧ sameBlock s t :=
  ⟨s.clearOut.nextInput, by rw [step_eq, h, thenNextInput], rfl, sameBlock_clearOut_nextInput s⟩

/-- Settles O10: neither event does anything when the machine is not live. -/
theorem tickAndStepAreInertWhenNotLive : Obligations.TickAndStepAreInertWhenNotLive := by
  unfold Obligations.TickAndStepAreInertWhenNotLive
  intro s hl he
  have hl' : s.clearOut.live = false := hl
  apply completes_of_react_eq_self
  obtain he | he := he <;> rw [he]
  · exact cpuStep_of_not_live hl'
  · exact congrArg Host.Outcome.next (tick_of_not_live hl')

theorem countDown_toNat (b : Byte) : (countDown b).toNat = b.toNat - 1 := by
  unfold countDown
  split
  · rename_i h; rw [h]; rfl
  · rename_i h; bv_omega

/-- Settles O12: a live machine counts both timers down by at most one, any other leaves them. -/
theorem tickCountsTheTimersDown : Obligations.TickCountsTheTimersDown := by
  unfold Obligations.TickCountsTheTimersDown
  intro s he
  have hcount (b : Byte) : (if s.live then countDown b else b).toNat =
      if s.running = true ∧ s.halt = none then b.toNat - 1 else b.toNat := by
    rw [apply_ite BitVec.toNat, countDown_toNat]
    exact if_congr (live_iff s) rfl rfl
  refine ⟨s.clearOut.tick.nextInput, by rw [step_of_event he]; rfl, ?_⟩
  rw [tick_eq]
  exact ⟨hcount s.dt, hcount s.st, rfl, rfl⟩

/-! ### The key-wait poll (R114) -/

section
variable {s : State} {w : KeyWait} {k : Fin 16}

/-- Nothing is latched and nothing pressed. -/
theorem keyWaitPoll_of_none_pressed (hw : w.key = none) (hf : s.firstPressed = none) : s.keyWaitPoll w = s := by
  simp [State.keyWaitPoll, hw, hf]

/-- The first pressed key is latched. -/
theorem keyWaitPoll_of_pressed (hw : w.key = none) (hf : s.firstPressed = some k) :
    s.keyWaitPoll w = { s with waiting := some ⟨w.register, some k⟩ } := by
  simp [State.keyWaitPoll, hw, hf]

/-- The latched key is still down. -/
theorem keyWaitPoll_of_held (hw : w.key = some k) (hk : s.keyDown k = true) : s.keyWaitPoll w = s := by
  simp [State.keyWaitPoll, hw, hk]

/-- The latched key is released: its index is delivered. -/
theorem keyWaitPoll_of_released (hw : w.key = some k) (hk : s.keyDown k = false) :
    s.keyWaitPoll w = { s.setReg w.register (BitVec.ofNat 8 k.val) with waiting := none } := by
  simp [State.keyWaitPoll, hw, hk]

/-- A key-wait poll changes no state but the wait and the register that waits. -/
theorem keyWaitPoll_frame (s : State) (w : KeyWait) :
    s.keyWaitPoll w = { s with v := (s.keyWaitPoll w).v, waiting := (s.keyWaitPoll w).waiting } := by
  cases hw : w.key with
  | none =>
    cases hf : s.firstPressed with
    | none => rw [keyWaitPoll_of_none_pressed hw hf]
    | some k => rw [keyWaitPoll_of_pressed hw hf]
  | some k =>
    cases hk : s.keyDown k with
    | true => rw [keyWaitPoll_of_held hw hk]
    | false => rw [keyWaitPoll_of_released hw hk]; rfl

/-- No key is found when none is pressed. -/
theorem firstPressed_eq_none (h : ∀ k, s.keyDown k = false) : s.firstPressed = none := by
  simp [State.firstPressed, List.find?_eq_none, h]

/-- A pressed key that no other pressed one precedes in the scan order is the one found (R114, R115). -/
theorem firstPressed_eq_some (hk : s.keyDown k = true)
    (hmin : ∀ j, s.keyDown j = true → keyScanOrder.idxOf k ≤ keyScanOrder.idxOf j) : s.firstPressed = some k := by
  have hnodup : keyScanOrder.Nodup := by decide
  have hall : ∀ k, k ∈ keyScanOrder := by decide
  have hlt : keyScanOrder.idxOf k < keyScanOrder.length := List.idxOf_lt_length_iff.mpr (hall k)
  refine List.find?_eq_some_iff_getElem.mpr ⟨hk, keyScanOrder.idxOf k, hlt, List.getElem_idxOf hlt, fun j hj => ?_⟩
  rw [Bool.not_eq_true', Bool.eq_false_iff]
  intro hpressed
  have hle := hmin _ hpressed
  rw [hnodup.idxOf_getElem j (hj.trans hlt)] at hle
  exact absurd hle (Nat.not_le.mpr hj)

end

/-- A key-wait poll, seen from the step. -/
theorem step_of_waiting {s : State} {w : KeyWait} (he : s.inp.event = .step) (hl : s.live = true) (hw : s.waiting = some w) :
    step s = .next (s.clearOut.keyWaitPoll w).nextInput := by
  rw [step_of_event he]
  exact congrArg thenNextInput (cpuStep_of_waiting (s := s.clearOut) hl hw)

/-- Settles O11: the four clauses are the four cases of the poll. -/
theorem keyWaitPollLatchesThenDelivers : Obligations.KeyWaitPollLatchesThenDelivers := by
  unfold Obligations.KeyWaitPollLatchesThenDelivers
  intro s r he hl
  refine ⟨fun hw hnone => ?_, fun k hw hk hmin => ?_, fun k hw hk => ?_, fun k hw hk => ?_⟩
  · have hf : s.clearOut.firstPressed = none := firstPressed_eq_none hnone
    refine ⟨_, step_of_waiting he hl hw, ?_⟩
    rw [keyWaitPoll_of_none_pressed rfl hf]
    exact ⟨rfl, rfl⟩
  · have hf : s.clearOut.firstPressed = some k := firstPressed_eq_some hk hmin
    refine ⟨_, step_of_waiting he hl hw, ?_⟩
    rw [keyWaitPoll_of_pressed rfl hf]
    exact ⟨rfl, rfl⟩
  · refine ⟨_, step_of_waiting he hl hw, ?_⟩
    rw [keyWaitPoll_of_held (s := s.clearOut) rfl hk]
    exact ⟨rfl, rfl⟩
  · refine ⟨_, step_of_waiting he hl hw, ?_⟩
    rw [keyWaitPoll_of_released (s := s.clearOut) rfl hk]
    exact ⟨rfl, rfl, fun x => reg_setReg s r x _⟩

/-! ### All that a Step can do (R113) -/

theorem fetchExecute_answers (s : State) : ∃ t, s.fetchExecute = .next t := by
  obtain ⟨i, -, -, e⟩ | ⟨op, -, e⟩ | ⟨-, e⟩ | ⟨-, e⟩ := fetchExecute_cases s <;> rw [e]
  · exact exec_answers i s.advance
  all_goals exact ⟨_, rfl⟩

/-- A Step always returns (R113). -/
theorem cpuStep_answers (s : State) : ∃ t, s.cpuStep = .next t := by
  obtain ⟨-, e⟩ | ⟨w, -, -, e⟩ | ⟨-, -, e⟩ := cpuStep_cases s <;> rw [e]
  · exact ⟨_, rfl⟩
  · exact ⟨_, rfl⟩
  · exact fetchExecute_answers s

/-- Settles O14: only a font that is too long has no answer. -/
theorem everyStepCompletes : Obligations.EveryStepCompletes := by
  unfold Obligations.EveryStepCompletes
  intro s hfont
  have hreact : ∃ u, s.clearOut.react s.inp.event = .next u := by
    cases he : s.inp.event with
    | step => exact cpuStep_answers s.clearOut
    | loadFont g => exact ⟨_, if_pos (hfont g he)⟩
    | _ => exact ⟨_, rfl⟩
  obtain ⟨u, hu⟩ := hreact
  exact ⟨u.nextInput, by rw [step_eq, hu, thenNextInput]⟩

/-- All a fetch can leave: what its instruction does, one notification, or an abort with the state otherwise as fetched. -/
theorem fetchExecute_inv {s t : State} (h : s.fetchExecute = .next t) :
    (∃ i rest, decode (s.mem.window s.pc.toNat 4) = .ok i rest ∧ exec i s.advance = .next t) ∨
    (s.pc.toNat ≤ 4094 ∧ ∃ op, t = s.advance.emit (.unknownOpcode op)) ∨
    t = s.raiseAbort .memoryOutOfRange ∨ t = s.advance.raiseAbort .memoryOutOfRange := by
  obtain ⟨i, rest, hd, e⟩ | ⟨op, hd, e⟩ | ⟨-, e⟩ | ⟨-, e⟩ := fetchExecute_cases s <;> rw [e] at h
  · exact .inl ⟨i, rest, hd, h⟩
  · cases h
    exact .inr (.inl ⟨pc_le_of_decode (by rw [hd]; simp), op, rfl⟩)
  · cases h; exact .inr (.inr (.inl rfl))
  · cases h; exact .inr (.inr (.inr rfl))

/-- All a Step can leave (R113). -/
theorem cpuStep_inv {s t : State} (h : s.cpuStep = .next t) :
    (s.live = false ∧ t = s) ∨ (∃ w, t = s.keyWaitPoll w) ∨
    (s.live = true ∧ s.waiting = none ∧ s.fetchExecute = .next t) := by
  obtain ⟨hl, e⟩ | ⟨w, -, -, e⟩ | ⟨hl, hw, e⟩ := cpuStep_cases s <;> rw [e] at h
  · cases h; exact .inl ⟨hl, rfl⟩
  · cases h; exact .inr (.inl ⟨w, rfl⟩)
  · exact .inr (.inr ⟨hl, hw, h⟩)

/-! ### The frame (R112) -/

theorem emittedBy_length_le (i : Instr) : (emittedBy i).length ≤ 1 := by
  cases i with
  | low | high | ldVxK | audio | exit => exact Nat.le_refl 1
  | _ => exact Nat.zero_le 1

/-- An instruction returns at most one notification (R113). -/
theorem exec_out_length_le {i : Instr} {s t : State} (hs : s.out = []) (h : exec i s = .next t) : t.out.length ≤ 1 := by
  obtain ⟨r, rfl, -⟩ | hf := exec_inv h
  · rw [raiseAbort_out, hs]; exact Nat.zero_le 1
  · rw [hf.out, hs]; exact emittedBy_length_le i

/-- A Step returns at most one notification (R113). -/
theorem cpuStep_out_length_le {s t : State} (hs : s.out = []) (h : s.cpuStep = .next t) : t.out.length ≤ 1 := by
  obtain ⟨-, rfl⟩ | ⟨w, rfl⟩ | ⟨-, -, h⟩ := cpuStep_inv h
  · rw [hs]; exact Nat.zero_le 1
  · rw [keyWaitPoll_frame]; simp [hs]
  obtain ⟨i, rest, -, h⟩ | ⟨-, op, rfl⟩ | rfl | rfl := fetchExecute_inv h
  · exact exec_out_length_le (by rw [advance_out, hs]) h
  all_goals simp [hs]

/-- The Steps of a frame, the first one apart. -/
theorem steps_cons {inp : HostInput} {rest : List HostInput} {s t u : State} {ms : List Message}
    (ht : ({ s with inp := inp, out := [] } : State).cpuStep = .next t) (hu : State.steps rest t = .next (u, ms)) :
    State.steps (inp :: rest) s = .next (u, t.out ++ ms) := by
  simp only [State.steps, ht, hu]

/-- A frame's Steps complete, with at most one notification each. -/
theorem steps_answers (l : List HostInput) (s : State) : ∃ u ms, State.steps l s = .next (u, ms) ∧ ms.length ≤ l.length := by
  induction l generalizing s with
  | nil => exact ⟨s, [], rfl, Nat.le_refl 0⟩
  | cons inp rest ih =>
    obtain ⟨t, ht⟩ := cpuStep_answers { s with inp := inp, out := [] }
    obtain ⟨u, ms, hu, hlen⟩ := ih t
    have hout := cpuStep_out_length_le rfl ht
    refine ⟨u, t.out ++ ms, steps_cons ht hu, ?_⟩
    simp only [List.length_append, List.length_cons]
    omega

/-- Two groups of Steps run one after the other. -/
theorem steps_append {a b : List HostInput} {s t u : State} {ms ns : List Message}
    (ha : State.steps a s = .next (t, ms)) (hb : State.steps b t = .next (u, ns)) :
    State.steps (a ++ b) s = .next (u, ms ++ ns) := by
  induction a generalizing s ms with
  | nil => cases ha; exact hb
  | cons inp rest ih =>
    obtain ⟨s', hs'⟩ := cpuStep_answers { s with inp := inp, out := [] }
    obtain ⟨t', ms', ht', -⟩ := steps_answers rest s'
    rw [steps_cons hs' ht'] at ha
    cases ha
    rw [List.cons_append, steps_cons hs' (ih ht'), List.append_assoc]

/-- Settles O13: by induction on the Steps, each of which completes with at most one notification. -/
theorem frameIsATickThenTheStepsInOrder : Obligations.FrameIsATickThenTheStepsInOrder := by
  unfold Obligations.FrameIsATickThenTheStepsInOrder
  refine ⟨fun s => rfl, fun s inp => ?_, fun s a b => ?_⟩
  · obtain ⟨t, ht⟩ := cpuStep_answers { s with inp := inp, out := [] }
    exact ⟨t, ht, by rw [steps_cons ht rfl, List.append_nil]⟩
  · obtain ⟨t, ms, ha, hlen⟩ := steps_answers a s.tick
    obtain ⟨u, ns, hb, -⟩ := steps_answers b t
    exact ⟨t, ms, u, ns, ha, hb, steps_append ha hb, hlen⟩

end Sys2Proof.Machine
end

section
/-! PROOFS. Reset, LoadRom and the host's other events (70_reset_and_hazards.md), the halted machine and the flag slot. -/

namespace Sys2Proof.Machine

/-! ### Reset and the valid LoadRom (R46, R270, R272) -/

theorem get_replicate {α : Type} (c : α) (k : Fin 16) : (Vector.replicate 16 c).get k = c := by
  simp [Vector.get_eq_getElem]

theorem reset_mem_get (a : Nat) : State.reset.mem.get a = if a < 512 then Config.fontByte a else 0 := rfl

/-- Settles O15: the power-on state is written out; its memory lists nothing, so each address reads as the font image or zero. -/
theorem resetLeavesTheValuesOfTheSpec : Obligations.ResetLeavesTheValuesOfTheSpec := by
  unfold Obligations.ResetLeavesTheValuesOfTheSpec
  exact ⟨rfl, rfl, reset_mem_get, get_replicate 0, rfl, rfl, rfl, rfl, rfl, rfl, rfl, rfl, get_replicate 0, rfl, rfl, rfl⟩

/-- Settles O16: the reset state is laid over the block, the flag slot apart. -/
theorem resetEventKeepsOnlyTheFlagSlot : Obligations.ResetEventKeepsOnlyTheFlagSlot := by
  unfold Obligations.ResetEventKeepsOnlyTheFlagSlot
  intro s he
  exact ⟨s.clearOut.resetBlock.nextInput, by rw [step_of_event he]; rfl, rfl, rfl⟩

theorem romSizeOk_iff (n : Nat) : romSizeOk n = true ↔ 1 ≤ n ∧ n ≤ 3584 := decide_eq_true_iff

theorem loadRom_of_accepted {bytes : List Byte} (h : romSizeOk bytes.length = true) (s : State) :
    s.loadRom bytes =
      { s.resetBlock with mem := s.resetBlock.mem.setBytes Config.programStart bytes, running := true } := if_pos h

/-- Bytes written from `a` on are read back there. -/
theorem get_setBytes_of_mem {bs : List Byte} (m : Memory) (a : Nat) {k : Nat} (hk : k < bs.length) :
    (m.setBytes a bs).get (a + k) = bs[k] := by
  rw [Memory.get_setBytes, dif_pos ⟨by omega, by omega⟩]
  simp only [Nat.add_sub_cancel_left]

/-- Every place outside a written range is left alone. -/
theorem get_setBytes_of_not_mem {bs : List Byte} (m : Memory) {a x : Nat} (hx : x < a ∨ a + bs.length ≤ x) :
    (m.setBytes a bs).get x = m.get x := by
  rw [Memory.get_setBytes, dif_neg (by omega)]

/-- Settles O17: the reset block with the ROM's bytes written from 0x200 on. -/
theorem loadRomResetsCopiesAndRuns : Obligations.LoadRomResetsCopiesAndRuns := by
  unfold Obligations.LoadRomResetsCopiesAndRuns
  intro s bytes he h1 h2
  have hok := (romSizeOk_iff bytes.length).mpr ⟨h1, h2⟩
  refine ⟨(s.clearOut.loadRom bytes).nextInput, by rw [step_of_event he]; rfl, ?_⟩
  rw [loadRom_of_accepted hok]
  exact ⟨rfl, rfl, fun k hk => get_setBytes_of_mem _ 0x200 hk, fun a ha => get_setBytes_of_not_mem _ ha⟩

/-! ### The halted machine and the flag slot (R36, R244) -/

/-- A Step of a machine that is not live changes nothing. -/
theorem eq_of_cpuStep_of_not_live {s t : State} (hl : s.live = false) (h : s.cpuStep = .next t) : t = s := by
  rw [cpuStep_of_not_live hl] at h
  cases h; rfl

theorem live_of_halted {s : State} (h : s.halt ≠ none) : s.live = false :=
  Bool.eq_false_iff.mpr fun hl => h ((live_iff s).mp hl).2

theorem tick_halt (s : State) : s.tick.halt = s.halt := by rw [tick_eq]

theorem tick_rpl (s : State) : s.tick.rpl = s.rpl := by rw [tick_eq]

theorem loadFont_inv {s t : State} {glyphs : List Byte} (h : s.loadFont glyphs = .next t) :
    glyphs.length ≤ 512 ∧ t = { s with mem := s.mem.setBytes 0 glyphs } := by
  unfold State.loadFont at h
  split at h <;> cases h
  exact ⟨‹_›, rfl⟩

/-- Settles O19: a halted machine is not live, and no other event than Reset and a valid LoadRom writes the halt or the flag slot. -/
theorem onlyResetOrAValidLoadLeavesTheHalt : Obligations.OnlyResetOrAValidLoadLeavesTheHalt := by
  unfold Obligations.OnlyResetOrAValidLoadLeavesTheHalt
  intro s t hs h hreset hload
  obtain ⟨u, hu, rfl⟩ := step_cases h
  rw [nextInput_halt, nextInput_rpl]
  cases he : s.inp.event <;> rw [he] at hu
  case tick => cases hu; exact ⟨tick_halt _, tick_rpl _⟩
  case step =>
    have hl : s.clearOut.live = false := live_of_halted hs
    rw [eq_of_cpuStep_of_not_live hl hu]
    exact ⟨rfl, rfl⟩
  case reset => exact absurd he hreset
  case loadRom bytes =>
    have hrej : romSizeOk bytes.length = false := by
      rw [Bool.eq_false_iff, ne_eq, romSizeOk_iff]; exact hload bytes he
    rw [react_loadRom, loadRom_of_rejected hrej] at hu
    cases hu; exact ⟨rfl, rfl⟩
  case clearAudioBuffer => cases hu; exact ⟨rfl, rfl⟩
  case loadFont glyphs =>
    obtain ⟨-, rfl⟩ := loadFont_inv hu
    exact ⟨rfl, rfl⟩

/-- A LoadRom of any size keeps the flag slot (R270, R272). -/
theorem loadRom_rpl (s : State) (bytes : List Byte) : (s.loadRom bytes).rpl = s.rpl := by
  cases h : romSizeOk bytes.length with
  | true => rw [loadRom_of_accepted h]; rfl
  | false => rw [loadRom_of_rejected h]

/-- Only Fx75 changes the flag slot, whether the instruction completes or aborts. -/
theorem ldRVx_of_rpl_ne {i : Instr} {s t : State} (h : exec i s = .next t) (hne : t.rpl ≠ s.rpl) : ∃ x, i = .ldRVx x := by
  obtain ⟨r, rfl, -⟩ | hf := exec_inv h
  · exact absurd rfl hne
  · exact hf.rpl hne

/-- A Step changes the flag slot only by executing Fx75. -/
theorem ldRVx_of_cpuStep_rpl_ne {s t : State} (h : s.cpuStep = .next t) (hne : t.rpl ≠ s.rpl) :
    s.live = true ∧ s.waiting = none ∧ ∃ x rest, decode (s.mem.window s.pc.toNat 4) = .ok (.ldRVx x) rest := by
  obtain ⟨-, rfl⟩ | ⟨w, rfl⟩ | ⟨hl, hw, h⟩ := cpuStep_inv h
  · exact absurd rfl hne
  · rw [keyWaitPoll_frame] at hne; exact absurd rfl hne
  obtain ⟨i, rest, hd, h⟩ | ⟨-, op, rfl⟩ | rfl | rfl := fetchExecute_inv h
  · obtain ⟨x, rfl⟩ := ldRVx_of_rpl_ne h hne
    exact ⟨hl, hw, x, rest, hd⟩
  all_goals exact absurd rfl hne

/-- Settles O25: no other event writes the flag slot, and a Step does so only by executing Fx75. -/
theorem flagSlotChangesOnlyByFx75 : Obligations.FlagSlotChangesOnlyByFx75 := by
  unfold Obligations.FlagSlotChangesOnlyByFx75
  intro s t h hne
  obtain ⟨u, hu, rfl⟩ := step_cases h
  rw [nextInput_rpl] at hne
  cases he : s.inp.event <;> rw [he] at hu
  case step =>
    obtain ⟨hl, hw, hd⟩ := ldRVx_of_cpuStep_rpl_ne hu hne
    exact ⟨⟨he, hl, hw⟩, hd⟩
  case tick => cases hu; exact absurd (tick_rpl _) hne
  case loadRom bytes => cases hu; exact absurd (loadRom_rpl _ _) hne
  case loadFont glyphs => obtain ⟨-, rfl⟩ := loadFont_inv hu; exact absurd rfl hne
  case reset | clearAudioBuffer => cases hu; exact absurd rfl hne

end Sys2Proof.Machine
end

section
/-! PROOFS. The index register, loads and stores through it, and the flag slot (43_index_memory.md); AUDIO and PITCH
(45_timers_keys_audio.md). -/

namespace Sys2Proof.Machine

/-! ### The range-checked instructions (R64, R179) -/

theorem exec_bcd (x : RegIx) (s : State) : exec (.bcd x) s =
    withRange s.iAddr 3 s (.next { s with mem := s.mem.setBytes s.iAddr (bcdDigits (s.reg x)) }) := rfl

theorem exec_ldMemVx (x : RegIx) (s : State) : exec (.ldMemVx x) s =
    withRange s.iAddr (x.val + 1) s (.next ({ s with mem := s.mem.setBytes s.iAddr (s.regBytes 0 x) }.incrementI x)) := rfl

theorem exec_ldVxMem (x : RegIx) (s : State) : exec (.ldVxMem x) s =
    withRange s.iAddr (x.val + 1) s (.next ({ s with v := loadRegs s.v s.mem s.iAddr 0 x }.incrementI x)) := rfl

theorem exec_save (x y : RegIx) (s : State) : exec (.save x y) s =
    withRange s.iAddr (regDistance x y + 1) s (.next { s with mem := s.mem.setBytes s.iAddr (s.regBytes x y) }) := rfl

theorem exec_load (x y : RegIx) (s : State) : exec (.load x y) s =
    withRange s.iAddr (regDistance x y + 1) s (.next { s with v := loadRegs s.v s.mem s.iAddr x y }) := rfl

theorem exec_audio (u : Nat) (s : State) : exec (.audio u) s = withRange s.i.toNat 16 s
    (.next ({ s with audioBuffer := Vector.ofFn fun k => s.mem.get (s.i.toNat + k.val) }.emit .audioBufferUpdated)) := rfl

section
variable {o : Result} {s u : State} {a n : Nat} (ho : o = withRange a n s (.next u))
include ho

/-- In range, a range-checked instruction completes. -/
theorem completes_of_inRange {P : State → Prop} (hr : n = 0 ∨ a + n ≤ 4096) (hP : P u) : Completes o P :=
  ⟨u, ho.trans (withRange_of_ok s _ hr), hP⟩

/-- Beyond memory, it aborts. -/
theorem aborts_of_beyond (hn : n ≠ 0) (hr : 4096 < a + n) : Aborts s o .memoryOutOfRange := by
  rw [ho, withRange_of_not_ok s _ (by omega)]
  exact abort_aborts s _

end

/-- I under `i_incremented`: no wrap where the range fits memory (R180, R181). -/
theorem incrementI_i_toNat {s : State} {x : RegIx} (hr : s.i.toNat + x.val ≤ 4095) :
    (s.incrementI x).i.toNat = if s.inp.quirks.iIncremented = true then s.i.toNat + x.val + 1 else s.i.toNat := by
  rw [incrementI_eq]
  split
  · exact Nat.mod_eq_of_lt (by omega)
  · rfl

theorem regDistance_of_le {x r : RegIx} (h : x ≤ r) : regDistance x r = r.val - x.val := if_pos h

theorem regDistance_of_ge {x r : RegIx} (h : r ≤ x) : regDistance x r = x.val - r.val := by
  rw [regDistance_eq, show r.val - x.val = 0 from Nat.sub_eq_zero_of_le h, Nat.zero_add]

theorem regDistance_zero (x : RegIx) : regDistance 0 x = x.val := regDistance_of_le (Fin.zero_le x)

/-- The byte that a range store leaves for a register of the range (R180, R182). -/
theorem get_setBytes_regBytes {s : State} {m : Memory} {a : Nat} {x y r : RegIx} (h : (x ≤ r ∧ r ≤ y) ∨ (y ≤ r ∧ r ≤ x)) :
    (m.setBytes a (s.regBytes x y)).get (a + regDistance x r) = s.reg r := by
  have hk : regDistance x r < (s.regBytes x y).length := by
    rw [regBytes_length, regDistance_eq, regDistance_eq]
    simp only [Fin.le_def] at h
    omega
  rw [get_setBytes_of_mem m a hk, regBytes_getElem s x y r h hk]

theorem bcdDigits_length (b : Byte) : (bcdDigits b).length = 3 := rfl

/-- Settles O44: the three digits fit bytes and stand where the store writes. -/
theorem bcdStoresThreeDigits : Obligations.BcdStoresThreeDigits := by
  unfold Obligations.BcdStoresThreeDigits
  intro x s
  have hb := byte_toNat_lt (s.reg x)
  have hget {k : Nat} (hk : k < 3) : (s.mem.setBytes s.iAddr (bcdDigits (s.reg x))).get (s.iAddr + k) = (bcdDigits (s.reg x))[k] :=
    get_setBytes_of_mem s.mem s.iAddr hk
  refine ⟨fun hr => completes_of_inRange (exec_bcd x s) (.inr (by omega)) ⟨rfl, ?_, ?_, ?_, fun a ha => ?_⟩,
    fun hr => aborts_of_beyond (exec_bcd x s) (by decide) (by omega)⟩
  · exact (congrArg BitVec.toNat (hget (k := 0) (by decide))).trans (Nat.mod_eq_of_lt (by omega))
  · exact (congrArg BitVec.toNat (hget (k := 1) (by decide))).trans (Nat.mod_eq_of_lt (by omega))
  · exact (congrArg BitVec.toNat (hget (k := 2) (by decide))).trans (Nat.mod_eq_of_lt (by omega))
  · exact get_setBytes_of_not_mem s.mem (by rw [bcdDigits_length]; omega)

/-- Settles O45: V0 to Vx are the register range from 0, whose k-th byte is Vk. -/
theorem bulkStoreWritesV0ToVx : Obligations.BulkStoreWritesV0ToVx := by
  unfold Obligations.BulkStoreWritesV0ToVx
  intro x s
  refine ⟨fun hr => completes_of_inRange (exec_ldMemVx x s) (.inr (by omega)) ?_,
    fun hr => aborts_of_beyond (exec_ldMemVx x s) (by omega) (by omega)⟩
  have hmem : (State.incrementI { s with mem := s.mem.setBytes s.iAddr (s.regBytes 0 x) } x).mem =
      s.mem.setBytes s.iAddr (s.regBytes 0 x) := by rw [incrementI_eq]
  refine ⟨by rw [incrementI_eq], fun k hk => ?_, fun a ha => ?_, incrementI_i_toNat hr⟩
  · have hget := get_setBytes_regBytes (s := s) (m := s.mem) (a := s.iAddr) (.inl ⟨Fin.zero_le k, hk⟩)
    rwa [regDistance_zero, ← hmem] at hget
  · rw [hmem]
    exact get_setBytes_of_not_mem s.mem (by rw [regBytes_length, regDistance_zero]; omega)

/-- Settles O46: the loaded registers are the range from 0, and Vk's byte is the k-th. -/
theorem bulkLoadReadsV0ToVx : Obligations.BulkLoadReadsV0ToVx := by
  unfold Obligations.BulkLoadReadsV0ToVx
  intro x s
  refine ⟨fun hr => completes_of_inRange (exec_ldVxMem x s) (.inr (by omega)) ?_,
    fun hr => aborts_of_beyond (exec_ldVxMem x s) (by omega) (by omega)⟩
  refine ⟨by rw [incrementI_eq], fun k => ?_, incrementI_i_toNat hr⟩
  have hload := reg_loadRegs s s.mem s.iAddr 0 x k
  have hrange : (0 ≤ k ∧ k ≤ x) ∨ (x ≤ k ∧ k ≤ 0) ↔ k ≤ x := by simp only [Fin.le_def, Fin.val_zero]; omega
  rw [regDistance_zero, if_congr hrange rfl rfl] at hload
  rw [incrementI_eq]
  exact hload

/-- Settles O47: the k-th byte of the range store is that of the k-th register from x toward y. -/
theorem rangeStoreWalksFromXToY : Obligations.RangeStoreWalksFromXToY := by
  unfold Obligations.RangeStoreWalksFromXToY
  intro x y s
  have hd := regDistance_eq x y
  refine ⟨fun hr => completes_of_inRange (exec_save x y s) (.inr (by omega))
      ⟨rfl, fun r h1 h2 => ?_, fun r h1 h2 => ?_, fun a ha => ?_⟩,
    fun hr => aborts_of_beyond (exec_save x y s) (by omega) (by omega)⟩
  · have hget := get_setBytes_regBytes (s := s) (m := s.mem) (a := s.iAddr) (.inl ⟨h1, h2⟩)
    rwa [regDistance_of_le h1] at hget
  · have hget := get_setBytes_regBytes (s := s) (m := s.mem) (a := s.iAddr) (.inr ⟨h1, h2⟩)
    rwa [regDistance_of_ge h2] at hget
  · exact get_setBytes_of_not_mem s.mem (by rw [regBytes_length]; omega)

/-- Settles O48: each register of the range gets the byte at its distance from x. -/
theorem rangeLoadWalksFromXToY : Obligations.RangeLoadWalksFromXToY := by
  unfold Obligations.RangeLoadWalksFromXToY
  intro x y s
  have hd := regDistance_eq x y
  have hload := reg_loadRegs s s.mem s.iAddr x y
  refine ⟨fun hr => completes_of_inRange (exec_load x y s) (.inr (by omega))
      ⟨rfl, fun r h1 h2 => ?_, fun r h1 h2 => ?_, fun r h1 h2 => ?_⟩,
    fun hr => aborts_of_beyond (exec_load x y s) (by omega) (by omega)⟩
  · rw [hload, if_pos (.inl ⟨h1, h2⟩), regDistance_of_le h1]
  · rw [hload, if_pos (.inr ⟨h1, h2⟩), regDistance_of_ge h2]
  · rw [hload, if_neg (not_or.mpr ⟨h1, h2⟩)]

/-- Settles O60: AUDIO's buffer is built byte by byte from I on, PITCH is one write. -/
theorem audioRegistersAreLoaded : Obligations.AudioRegistersAreLoaded := by
  unfold Obligations.AudioRegistersAreLoaded
  intro u x s
  exact ⟨fun hr => completes_of_inRange (exec_audio u s) (.inr (by omega)) ⟨rfl, fun k => get_ofFn _ k⟩,
    fun hr => aborts_of_beyond (exec_audio u s) (by decide) (by omega), rfl⟩

/-! ### The index register and the flag slot -/

/-- Settles O49: both copies take the first x + 1 bytes and leave the rest. -/
theorem flagSlotSavesAndRestores : Obligations.FlagSlotSavesAndRestores := by
  unfold Obligations.FlagSlotSavesAndRestores
  intro x s
  exact ⟨⟨{ s with rpl := copyUpTo x s.v s.rpl }, rfl, rfl, fun k => get_copyUpTo x k s.v s.rpl⟩,
    ⟨{ s with v := copyUpTo x s.rpl s.v }, rfl, rfl, fun k => get_copyUpTo x k s.rpl s.v⟩⟩

/-- The exact address of a big glyph (R177). -/
theorem bigGlyphSum_eq (b : Byte) : bigGlyphSum b = Config.bigFontBase.toNat + b.toNat % 16 * Config.bigFontStride := by
  rw [bigGlyphSum, show (b &&& 0x0F#8).toNat = b.toNat % 16 from byte_and_0F b]

theorem bigGlyph_toNat {b : Byte} (h : bigGlyphSum b < 65536) : (bigGlyph b).toNat = bigGlyphSum b := by
  rw [bigGlyph, if_pos h]
  exact Nat.mod_eq_of_lt h

/-- Settles O43: one write of I each, and five times a byte fits 16 bits. -/
theorem indexArithmetic : Obligations.IndexArithmetic := by
  unfold Obligations.IndexArithmetic
  intro x s
  have hb := byte_toNat_lt (s.reg x)
  refine ⟨⟨_, rfl, BitVec.toNat_ofNat .., rfl⟩, ⟨_, rfl, ?_, rfl⟩,
    ⟨{ s with i := bigGlyph (s.reg x) }, rfl, rfl, fun hfits => ?_⟩⟩
  · exact Nat.mod_eq_of_lt (by omega)
  · rw [← bigGlyphSum_eq] at hfits ⊢
    exact bigGlyph_toNat hfits

/-! ### The 4-byte load (R171) -/

theorem exec_ldILong (w : Word) (s : State) : exec (.ldILong w) s = .next { s with i := w, pc := s.pc + 2 } := rfl

/-- Four bytes of memory are in the fetch's window when all of them exist. -/
theorem window_four {m : Memory} {a : Nat} (ha : a ≤ 4092) :
    m.window a 4 = [m.get a, m.get (a + 1), m.get (a + 2), m.get (a + 3)] := by
  rw [Memory.window, Config.memSize, Nat.min_eq_left (by omega)]
  rfl

/-- The opcode word 0xF000 with no operand word behind it is rejected. -/
theorem decode_extMarker_short {bs : List Byte} (h : bs.length < 2) :
    decode ([0xF0, 0x00] ++ bs) = .reject .noOperandWord := by
  match bs, h with
  | [], _ => rfl
  | [b], _ => rfl

/-- Settles O42: with four bytes at pc the operand word is the third and fourth of them; with fewer the fetch aborts. -/
theorem extendedLoadTakesTheNextWord : Obligations.ExtendedLoadTakesTheNextWord := by
  unfold Obligations.ExtendedLoadTakesTheNextWord
  refine ⟨exec_ldILong, fun s hf hp hpc => ?_, fun s hf hp hpc => ?_⟩
  · obtain ⟨-, hbytes⟩ := hp
    have hm : wordOfBytes (s.mem.get s.pc.toNat) (s.mem.get (s.pc.toNat + 1)) = extMarker :=
      (wordOfBytes_eq_extMarker _ _).mpr ⟨hbytes 0 (by decide), hbytes 1 (by decide)⟩
    have hd : decode (s.mem.window s.pc.toNat 4) =
        .ok (.ldILong (wordOfBytes (s.mem.get (s.pc.toNat + 2)) (s.mem.get (s.pc.toNat + 3)))) [] := by
      rw [window_four hpc, decode_ldILong hm]
    have hpc4 : s.pc + 2 + 2 = s.pc + 4 := by rw [BitVec.add_assoc]; rfl
    rw [step_of_decode hf hd, exec_ldILong]
    refine ⟨_, rfl, ?_, wordOfBytes_toNat _ _⟩
    simp only [sameBlock, advance_pc, clearOut_pc, hpc4]
    rfl
  · obtain ⟨rest, hw⟩ := window_of_holdsAtPc hp (by simp)
    have hlen : (s.mem.window s.pc.toNat 4).length < 4 := by rw [Memory.window_length]; omega
    have hd : decode (s.clearOut.mem.window s.clearOut.pc.toNat 4) = .reject .noOperandWord := by
      rw [clearOut_mem, clearOut_pc, hw]
      rw [hw, List.length_append, List.length_cons, List.length_singleton] at hlen
      exact decode_extMarker_short (by omega)
    rw [step_of_fetching hf, fetchExecute_of_noOperandWord hd]
    exact aborts_thenNextInput rfl _

end Sys2Proof.Machine
end

section
/-! PROOFS. The invariant of the model (R24, R47): it holds at power-on and every step keeps it. -/

namespace Sys2Proof.Machine

/-- Settles O21: memory lists nothing, both planes are 2048 zeros, the stack is empty and pc is 0x200. -/
theorem resetMeetsTheInvariant : Obligations.ResetMeetsTheInvariant := by
  unfold Obligations.ResetMeetsTheInvariant
  refine ⟨reset_mem_wf, fun _ => ⟨⟨List.length_replicate, List.length_replicate⟩, ?_, ?_⟩⟩
  · exact fun w hw => nomatch hw
  · show (0x200 : Word).toNat ≤ 0x10FE
    decide

section
variable {i : Instr} {s t : State}

/-! ### Memory stays canonical -/

/-- A range-checked store keeps the canonical form, whether it stores or aborts. -/
theorem mem_wf_of_store {n : Nat} {bs : List Byte} {u : State} (hs : s.mem.wf) (hn : bs.length = n)
    (hu : u.mem = s.mem.setBytes s.iAddr bs) (h : withRange s.iAddr n s (.next u) = .next t) : t.mem.wf := by
  obtain ⟨hr, e⟩ | ⟨-, e⟩ := withRange_cases s.iAddr n s (.next u) <;> rw [e] at h <;> cases h
  · rw [hu]
    subst hn
    exact Memory.wf_setBytes bs s.mem s.iAddr hs (hr.imp_left List.eq_nil_of_length_eq_zero)
  · exact hs

/-- Every instruction keeps memory canonical. -/
theorem exec_mem_wf (hs : s.mem.wf) (h : exec i s = .next t) : t.mem.wf := by
  by_cases hm : t.mem = s.mem
  · exact hm ▸ hs
  obtain ⟨r, rfl, -⟩ | hf := exec_inv h
  · exact absurd rfl hm
  obtain ⟨x, rfl⟩ | ⟨x, rfl⟩ | ⟨x, y, rfl⟩ := hf.mem hm
  · exact mem_wf_of_store hs (bcdDigits_length _) rfl (exec_bcd x s ▸ h)
  · rw [exec_ldMemVx, incrementI_eq] at h
    exact mem_wf_of_store hs (by rw [regBytes_length, regDistance_zero]) rfl h
  · exact mem_wf_of_store hs (regBytes_length s x y) rfl (exec_save x y s ▸ h)

/-! ### Planes stay of the resolution's size -/

theorem planesSized_mapSelected {f : List Bool → List Bool} (hs : s.planesSized) (hf : ∀ p, (f p).length = s.res.pixels) :
    (s.mapSelected f).planesSized := by
  obtain ⟨h0, h1⟩ := hs
  constructor
  · rw [mapSelected_plane0, mapSelected_res, apply_ite List.length, hf, h0, ite_self]
  · rw [mapSelected_plane1, mapSelected_res, apply_ite List.length, hf, h1, ite_self]

theorem planesSized_setResolution (s : State) (r : Resolution) : (s.setResolution r).planesSized :=
  ⟨blankPlane_length r, blankPlane_length r⟩

/-- A draw keeps the size of both planes (R209). -/
theorem drawn_length (s : State) (x0 y0 n : Nat) :
    (s.drawn x0 y0 n).1.length = s.plane0.length ∧ (s.drawn x0 y0 n).2.1.length = s.plane1.length := by
  unfold State.drawn
  constructor
  · cases s.selected 0 <;> simp
  · cases s.selected 1 <;> simp

/-- Every instruction keeps the planes at the resolution's size. -/
theorem exec_planesSized (hs : s.planesSized) (h : exec i s = .next t) : t.planesSized := by
  cases hi : writesPlanes i with
  | false =>
    obtain ⟨r, rfl, -⟩ | hf := exec_inv h
    · exact hs
    have hres : t.res = s.res := by
      by_contra hne
      obtain rfl | rfl := hf.res hne <;> cases hi
    have hplanes : t.plane0 = s.plane0 ∧ t.plane1 = s.plane1 := by
      by_contra hne
      rw [hf.planes (by tauto)] at hi
      cases hi
    obtain ⟨h0, h1⟩ := hplanes
    rw [State.planesSized, h0, h1, hres]
    exact hs
  | true =>
    cases i with
    | scd n | scu n | scr | scl => cases h; exact planesSized_mapSelected hs fun p => planeOf_length ..
    | cls => cases h; exact planesSized_mapSelected hs fun p => blankPlane_length _
    | low | high => cases h; exact planesSized_setResolution s _
    | drw x y n =>
      obtain rfl | ⟨-, -, rfl⟩ := withRange_inv h
      · obtain ⟨h0, h1⟩ := drawn_length s ((s.reg x).toNat % s.res.width) ((s.reg y).toNat % s.res.height) n
        exact ⟨h0.trans hs.1, h1.trans hs.2⟩
      · exact hs
    | _ => cases hi

/-! ### The stack and pc stay bounded (R24, R47) -/

/-- Every instruction keeps the stack's elements at most 4096, for a call pushes the post-fetch pc. -/
theorem exec_stackBounded (hs : s.stackBounded) (hpc : s.pc.toNat ≤ 4096) (h : exec i s = .next t) : t.stackBounded := by
  by_cases hst : t.stack = s.stack
  · rw [State.stackBounded, hst]; exact hs
  obtain ⟨r, rfl, -⟩ | hf := exec_inv h
  · exact absurd rfl hst
  obtain rfl | ⟨a, rfl⟩ := hf.stack hst
  · obtain ⟨he, -⟩ | ⟨rest, w, he, -⟩ := pop_cases s
    · rw [exec_ret_of_empty he] at h; cases h; exact absurd rfl hst
    · rw [exec_ret_of_append he] at h; cases h
      exact fun v hv => hs v (by rw [he]; exact List.mem_append_left _ hv)
  · cases h
    intro w hw
    obtain hw | rfl := List.mem_append.mp hw |>.imp_right List.eq_of_mem_singleton
    · exact hs w hw
    · exact hpc

theorem toNat_add_le {w d : Word} {b : Nat} (hw : w.toNat ≤ b) : (w + d).toNat ≤ b + d.toNat := by
  rw [BitVec.toNat_add]
  exact (Nat.mod_le _ _).trans (Nat.add_le_add_right hw _)

/-- A zero-extended 12-bit address is within the bound. -/
theorem addr_toNat_le (a : Addr12) : (a.setWidth 16).toNat ≤ 0x10FE := by
  have ha : a.toNat < 4096 := a.isLt
  rw [BitVec.toNat_setWidth_of_le (by decide)]
  omega

/-- Every instruction keeps pc at most 0x10FE: the greatest value is that of JP V0 (R24). -/
theorem exec_pcBounded (hs : s.stackBounded) (hlo : 2 ≤ s.pc.toNat) (hhi : s.pc.toNat ≤ 4096) (h : exec i s = .next t) :
    t.pcBounded := by
  by_cases hpc : t.pc = s.pc
  · rw [State.pcBounded, hpc]; omega
  obtain ⟨r, rfl, -⟩ | hf := exec_inv h
  · exact absurd rfl hpc
  have hset := hf.pc hpc
  cases hi : isSkip i with
  | true =>
    obtain ⟨x, -, -, rfl⟩ | ⟨c, -, h⟩ := exec_skip_inv hi h
    · exact absurd rfl hpc
    obtain ⟨-, rfl⟩ | ⟨-, -, rfl | rfl⟩ | ⟨-, -, rfl⟩ := skipIf_inv h
    · exact absurd rfl hpc
    · exact (toNat_add_le hhi).trans (by decide)
    · exact (toNat_add_le hhi).trans (by decide)
    · exact absurd rfl hpc
  | false =>
    cases i with
    | ret =>
      obtain ⟨he, -⟩ | ⟨rest, w, he, -⟩ := pop_cases s
      · rw [exec_ret_of_empty he] at h; cases h; exact absurd rfl hpc
      · rw [exec_ret_of_append he] at h; cases h
        exact (hs w (by rw [he]; simp)).trans (by decide)
    | exit =>
      cases h
      show (s.pc - 2).toNat ≤ 0x10FE
      bv_omega
    | jp a | call a => cases h; exact addr_toNat_le a
    | jpV0 a =>
      cases h
      have ha : a.toNat < 4096 := a.isLt
      have hb := byte_toNat_lt (s.reg (s.jumpRegister a))
      show (BitVec.ofNat 16 (a.toNat + (s.reg (s.jumpRegister a)).toNat)).toNat ≤ 0x10FE
      rw [toNat_ofNat_addr_add_byte]
      omega
    | ldILong w => cases h; exact (toNat_add_le hhi).trans (by decide)
    | seImm | sneImm | seReg | sneReg | skp | sknp => cases hi
    | _ => cases hset

end

/-! ### Every step keeps the invariant -/

theorem inv_of_halted {s : State} {r : AbortReason} (hm : s.mem.wf) (h : s.halt = some r) : s.Inv :=
  ⟨hm, fun hh => by rw [h] at hh; cases hh⟩

/-- An instruction executed after the fetch of a state within the bounds keeps the invariant. -/
theorem inv_exec {i : Instr} {s t : State} (hm : s.mem.wf) (hp : s.planesSized) (hst : s.stackBounded) (hlo : 2 ≤ s.pc.toNat)
    (hhi : s.pc.toNat ≤ 4096) (h : exec i s = .next t) : t.Inv :=
  ⟨exec_mem_wf hm h, fun _ => ⟨exec_planesSized hp h, exec_stackBounded hst hhi h, exec_pcBounded hst hlo hhi h⟩⟩

theorem inv_fetchExecute {s t : State} (hs : s.Inv) (hl : s.live = true) (h : s.fetchExecute = .next t) : t.Inv := by
  obtain ⟨hm, hok⟩ := hs
  obtain ⟨hp, hst, -⟩ := hok ((live_iff s).mp hl).2
  have hadv (hpc : s.pc.toNat ≤ 4094) : s.advance.pc.toNat = s.pc.toNat + 2 := by
    rw [advance_pc]; bv_omega
  obtain ⟨i, rest, hd, h⟩ | ⟨hpc, op, rfl⟩ | rfl | rfl := fetchExecute_inv h
  · have hpc : s.pc.toNat ≤ 4094 := pc_le_of_decode (by rw [hd]; simp)
    exact inv_exec (s := s.advance) hm hp hst (by rw [hadv hpc]; omega) (by rw [hadv hpc]; omega) h
  · refine ⟨hm, fun _ => ⟨hp, hst, ?_⟩⟩
    show s.advance.pc.toNat ≤ 0x10FE
    rw [hadv hpc]; omega
  · exact inv_of_halted hm rfl
  · exact inv_of_halted hm rfl

theorem inv_cpuStep {s t : State} (hs : s.Inv) (h : s.cpuStep = .next t) : t.Inv := by
  obtain ⟨-, rfl⟩ | ⟨w, rfl⟩ | ⟨hl, -, h⟩ := cpuStep_inv h
  · exact hs
  · rw [keyWaitPoll_frame]; exact hs
  · exact inv_fetchExecute hs hl h

/-- A reset gives a state within the invariant, with any canonical memory in place of its own. -/
theorem inv_resetBlock (s : State) {m : Memory} (hm : m.wf) (b : Bool) : State.Inv { s.resetBlock with mem := m, running := b } := by
  obtain ⟨-, hok⟩ := resetMeetsTheInvariant
  exact ⟨hm, hok⟩

theorem inv_loadRom {s : State} (hs : s.Inv) (bytes : List Byte) : (s.loadRom bytes).Inv := by
  cases h : romSizeOk bytes.length with
  | true =>
    obtain ⟨-, hle⟩ := (romSizeOk_iff _).mp h
    rw [loadRom_of_accepted h]
    refine inv_resetBlock s (Memory.wf_setBytes bytes _ _ reset_mem_wf (.inr ?_)) true
    rw [Config.programStart]; omega
  | false => rw [loadRom_of_rejected h]; exact hs

/-- Settles O20: an instruction keeps each part of the invariant, the fetch keeps pc within 4096, and the host's events keep it too. -/
theorem stepKeepsTheInvariant : Obligations.StepKeepsTheInvariant := by
  unfold Obligations.StepKeepsTheInvariant
  intro s t hs h
  obtain ⟨u, hu, rfl⟩ := step_cases h
  have hclear : s.clearOut.Inv := hs
  suffices u.Inv from this
  cases he : s.inp.event <;> rw [he] at hu
  case tick => cases hu; rw [tick_eq]; exact hclear
  case step => exact inv_cpuStep hclear hu
  case reset => cases hu; exact inv_resetBlock _ reset_mem_wf false
  case loadRom bytes => cases hu; exact inv_loadRom hclear bytes
  case clearAudioBuffer => cases hu; exact hclear
  case loadFont glyphs =>
    obtain ⟨hlen, rfl⟩ := loadFont_inv hu
    obtain ⟨hm, hok⟩ := hclear
    exact ⟨Memory.wf_setBytes glyphs _ 0 hm (.inr (by omega)), hok⟩

end Sys2Proof.Machine
end

section
/-! PROOFS. EXIT (40_execution_cycle.md) and the control transfers (41_control_flow.md): jump, call, return, skips. -/

namespace Sys2Proof.Machine

theorem exec_exit (s : State) : exec .exit s = .next ({ s with exitReq := true, pc := s.pc - 2 }.emit .exitRequested) := rfl

/-- Settles O29: EXIT is the write of the flag and of pc, and one notification (R120). -/
theorem exitRequestsAndRewinds : Obligations.ExitRequestsAndRewinds := by
  unfold Obligations.ExitRequestsAndRewinds
  intro s
  rw [exec_exit, emit_eq]

/-- Settles O30: both set pc to the 12-bit address widened, which keeps its value; the call pushes, which never fails (R70). -/
theorem jumpAndCallGoToTheAddress : Obligations.JumpAndCallGoToTheAddress := by
  unfold Obligations.JumpAndCallGoToTheAddress
  intro nnn s
  have hpc : (nnn.setWidth 16).toNat = nnn.toNat := BitVec.toNat_setWidth_of_le (by decide)
  exact ⟨⟨{ s with pc := nnn.setWidth 16 }, rfl, hpc, rfl⟩, ⟨{ s.push s.pc with pc := nnn.setWidth 16 }, rfl, hpc, rfl⟩⟩

/-- Settles O31: a pop gives the last element, and there is none on the empty stack (R71, R72). -/
theorem returnPopsOrAborts : Obligations.ReturnPopsOrAborts := by
  unfold Obligations.ReturnPopsOrAborts
  intro s
  exact ⟨fun rest w hs => exec_ret_of_append hs, fun hs => exec_ret_of_empty hs ▸ abort_aborts s _⟩

/-! ### The skips -/

/-- A taken skip: four bytes past the word 0xF000, two past any other, an abort where the next word does not exist (R134). -/
theorem skip_spec (s : State) :
    (s.pc.toNat ≤ 4094 → s.mem.get s.pc.toNat = 0xF0 ∧ s.mem.get (s.pc.toNat + 1) = 0x00 →
      skip s = .next { s with pc := s.pc + 4 }) ∧
    (s.pc.toNat ≤ 4094 → ¬(s.mem.get s.pc.toNat = 0xF0 ∧ s.mem.get (s.pc.toNat + 1) = 0x00) →
      skip s = .next { s with pc := s.pc + 2 }) ∧
    (4094 < s.pc.toNat → Aborts s (skip s) .memoryOutOfRange) := by
  rw [← wordOfBytes_eq_extMarker]
  obtain ⟨hpc, hw, e⟩ | ⟨hpc, hw, e⟩ | ⟨hpc, e⟩ := skip_cases s
  · exact ⟨fun _ _ => e, fun _ hn => absurd hw hn, fun hn => absurd hpc (Nat.not_le.mpr hn)⟩
  · exact ⟨fun _ hy => absurd hy hw, fun _ _ => e, fun hn => absurd hpc (Nat.not_le.mpr hn)⟩
  · exact ⟨fun hn => absurd hn (Nat.not_le.mpr hpc), fun hn => absurd hn (Nat.not_le.mpr hpc), fun _ => e ▸ abort_aborts s _⟩

/-- Settles O33: each of the four is the conditional skip on its condition. -/
theorem compareSkips : Obligations.CompareSkips := by
  unfold Obligations.CompareSkips
  intro x y nn s i c hi
  have hexec : ∃ b : Bool, (b = true ↔ c) ∧ exec i s = skipIf b s := by
    obtain ⟨rfl, hc⟩ | ⟨rfl, hc⟩ | ⟨rfl, hc⟩ | ⟨rfl, hc⟩ := hi
    · exact ⟨_, beq_iff_eq.trans hc.symm, rfl⟩
    · exact ⟨_, bne_iff_ne.trans hc.symm, rfl⟩
    · exact ⟨_, beq_iff_eq.trans hc.symm, rfl⟩
    · exact ⟨_, bne_iff_ne.trans hc.symm, rfl⟩
  obtain ⟨b, hb, he⟩ := hexec
  rw [← hb, he]
  obtain ⟨h4, h2, habort⟩ := skip_spec s
  cases b with
  | false => exact ⟨fun _ => rfl, nofun, nofun, nofun⟩
  | true => exact ⟨fun hn => absurd rfl hn, fun _ => h4, fun _ => h2, fun _ => habort⟩

/-- Settles O34: the index check comes first, then the conditional skip on the key's level. -/
theorem keySkips : Obligations.KeySkips := by
  unfold Obligations.KeySkips
  intro x s i level hi
  obtain ⟨h4, h2, habort⟩ := skip_spec s
  refine ⟨fun hx => ?_, fun k hk => ?_⟩
  · obtain ⟨rfl, -⟩ | ⟨rfl, -⟩ := hi
    · exact exec_skp_of_no_key hx ▸ abort_aborts s _
    · exact exec_sknp_of_no_key hx ▸ abort_aborts s _
  · have hexec : exec i s = skipIf (s.keyDown k == level) s := by
      obtain ⟨rfl, rfl⟩ | ⟨rfl, rfl⟩ := hi
      · rw [exec_skp_of_key hk, beq_true]
      · rw [exec_sknp_of_key hk, beq_false]
    rw [hexec]
    by_cases hlevel : s.keyDown k = level
    · rw [beq_iff_eq.mpr hlevel]
      exact ⟨fun hn => absurd hlevel hn, fun _ => h4, fun _ => h2, fun _ => habort⟩
    · rw [beq_eq_false_iff_ne.mpr hlevel]
      exact ⟨fun _ => rfl, fun h => absurd h hlevel, fun h => absurd h hlevel, fun h => absurd h hlevel⟩

end Sys2Proof.Machine
end

section
/-! PROOFS. The ALU (42_alu.md): the instructions that write VF besides their destination; and the timer moves
(45_timers_keys_audio.md). -/

namespace Sys2Proof.Machine

/-- Settles O37: one register write of the result, then VF under the quirk. -/
theorem logicWritesTheResultThenZeroesVfUnderTheQuirk : Obligations.LogicWritesTheResultThenZeroesVfUnderTheQuirk := by
  unfold Obligations.LogicWritesTheResultThenZeroesVfUnderTheQuirk
  intro x y s i result hi
  have hexec : exec i s = .next (s.setReg x result).forceVfZero := by
    obtain ⟨rfl, rfl⟩ | ⟨rfl, rfl⟩ | ⟨rfl, rfl⟩ := hi <;> rfl
  refine ⟨_, hexec, ?_, fun r => ?_⟩
  · rw [forceVfZero_eq]; rfl
  · rw [reg_forceVfZero, reg_setReg]; rfl

/-! ### Result first, flag second (R152) -/

/-- What an instruction that writes a result and then VF does, and its frame: at VF the flag is what stays. -/
theorem completes_of_eq_setRegFlag {o : Result} {s : State} {x : RegIx} {b f : Byte} (h : o = .next (s.setRegFlag x b f)) :
    Completes o fun t => t = { s with v := t.v } ∧ (x ≠ 15 → t.reg x = b) ∧ t.reg 15 = f ∧
      ∀ r, r ≠ x → r ≠ 15 → t.reg r = s.reg r := by
  refine ⟨_, h, rfl, fun hx => ?_, ?_, fun r hx hF => ?_⟩
  · rw [reg_setRegFlag, if_neg hx, if_pos rfl]
  · rw [reg_setRegFlag, if_pos rfl]
  · rw [reg_setRegFlag, if_neg hF, if_neg hx]

theorem exec_addReg (x y : RegIx) (s : State) : exec (.addReg x y) s =
    .next (s.setRegFlag x (BitVec.ofNat 8 ((s.reg x).toNat + (s.reg y).toNat)) (flagByte (carryOut (s.reg x) (s.reg y)))) := rfl

theorem exec_shr (x y : RegIx) (s : State) : exec (.shr x y) s =
    .next (s.setRegFlag x (s.shiftSource x y >>> 1) (flagByte (shiftedOutRight (s.shiftSource x y)))) := rfl

theorem exec_shl (x y : RegIx) (s : State) : exec (.shl x y) s =
    .next (s.setRegFlag x (s.shiftSource x y <<< 1) (flagByte (shiftedOutLeft (s.shiftSource x y)))) := rfl

theorem flagByte_decide (p : Prop) [Decidable p] : flagByte (decide p) = if p then 1 else 0 := by
  by_cases h : p <;> simp [flagByte, h]

theorem flagByte_toNat (b : Bool) : (flagByte b).toNat = b.toNat := by cases b <;> rfl

/-- Settles O38: the narrowed sum, then the carry of the exact one (R157). -/
theorem addWritesTheSumThenTheCarry : Obligations.AddWritesTheSumThenTheCarry := by
  unfold Obligations.AddWritesTheSumThenTheCarry
  intro x y s
  obtain ⟨t, hnext, hframe, hx, hF, hrest⟩ := completes_of_eq_setRegFlag (exec_addReg x y s)
  refine ⟨t, hnext, hframe, fun hne => ?_, ?_, hrest⟩
  · rw [hx hne, BitVec.toNat_ofNat]
  · rw [hF, carryOut, flagByte_decide]

/-- The exact difference narrowed to a byte (R158, R160). -/
theorem subWrapped_toNat (a b : Byte) : (subWrapped a b).toNat = (256 + a.toNat - b.toNat) % 256 := by
  have ha := byte_toNat_lt a
  have hb := byte_toNat_lt b
  rw [subWrapped, BitVec.toNat_ofInt]
  omega

/-- Settles O39: both are one subtraction with the operands in their order, then NOT borrow. -/
theorem subtractWritesTheDifferenceThenNotBorrow : Obligations.SubtractWritesTheDifferenceThenNotBorrow := by
  unfold Obligations.SubtractWritesTheDifferenceThenNotBorrow
  intro x y s i a b hi
  have hexec : exec i s = .next (s.setRegFlag x (subWrapped a b) (flagByte (notBorrow a b))) := by
    obtain ⟨rfl, rfl, rfl⟩ | ⟨rfl, rfl, rfl⟩ := hi <;> rfl
  obtain ⟨t, hnext, hframe, hx, hF, hrest⟩ := completes_of_eq_setRegFlag hexec
  refine ⟨t, hnext, hframe, fun hne => ?_, ?_, hrest⟩
  · rw [hx hne, subWrapped_toNat]
  · rw [hF, notBorrow, flagByte_decide]

/-- The bit a right shift moves out is the byte's parity (R159). -/
theorem shiftedOutRight_toNat (b : Byte) : (shiftedOutRight b).toNat = b.toNat % 2 := by
  rw [shiftedOutRight, BitVec.getLsbD, Nat.toNat_testBit, pow_zero, Nat.div_one]

/-- The bit a left shift moves out is the byte's top bit (R161). -/
theorem shiftedOutLeft_toNat (b : Byte) : (shiftedOutLeft b).toNat = b.toNat / 128 := by
  have hb := byte_toNat_lt b
  rw [shiftedOutLeft, BitVec.getLsbD, Nat.toNat_testBit]
  omega

/-- Settles O40: the source under the quirk, shifted by one, then the bit shifted out. -/
theorem shiftsMoveOneBitIntoVf : Obligations.ShiftsMoveOneBitIntoVf := by
  unfold Obligations.ShiftsMoveOneBitIntoVf
  intro x y s src hsrc
  have hsource : s.shiftSource x y = src := hsrc.symm
  constructor
  · obtain ⟨t, hnext, hframe, hx, hF, hrest⟩ := completes_of_eq_setRegFlag (exec_shr x y s)
    refine ⟨t, hnext, hframe, fun hne => ?_, ?_, hrest⟩
    · rw [hx hne, hsource, BitVec.toNat_ushiftRight, Nat.shiftRight_one]
    · rw [hF, hsource, flagByte_toNat, shiftedOutRight_toNat]
  · obtain ⟨t, hnext, hframe, hx, hF, hrest⟩ := completes_of_eq_setRegFlag (exec_shl x y s)
    refine ⟨t, hnext, hframe, fun hne => ?_, ?_, hrest⟩
    · rw [hx hne, hsource, BitVec.toNat_shiftLeft, Nat.shiftLeft_eq, pow_one]
    · rw [hF, hsource, flagByte_toNat, shiftedOutLeft_toNat]

/-! ### The timer moves (R220 to R222) -/

theorem exec_ldVxDt (x : RegIx) (s : State) : exec (.ldVxDt x) s = .next (s.setReg x s.dt) := rfl

theorem exec_ldStVx (x : RegIx) (s : State) : exec (.ldStVx x) s =
    .next { s with st := s.reg x, audioBuffer := if s.reg x = 0 then silentBuffer else s.audioBuffer } := rfl

/-- Settles O58: one register write, one timer write, and for ST the buffer of zeros where the value is 0. -/
theorem timerMoves : Obligations.TimerMoves := by
  unfold Obligations.TimerMoves
  intro x s
  refine ⟨completes_of_eq_setReg (exec_ldVxDt x s), rfl, ⟨_, exec_ldStVx x s, rfl, fun hz k => ?_, fun hz => if_neg hz⟩⟩
  simp only [if_pos hz]
  exact get_replicate 0 k

end Sys2Proof.Machine
end

section
/-! PROOFS. Memory (20_memory.md): the canonical form determines the list. -/

namespace Sys2Proof.Machine

/-- In a memory with rising addresses an entry is what its address reads as. -/
theorem get_of_mem {m : Memory} (hm : m.Pairwise fun c d => c.1 < d.1) {a : Nat} {b : Byte} (h : (a, b) ∈ m) : m.get a = b := by
  induction m with
  | nil => cases h
  | cons c m ih =>
    obtain ⟨hc, hm⟩ := List.pairwise_cons.mp hm
    rw [Memory.get]
    obtain rfl | h := List.mem_cons.mp h
    · exact if_pos rfl
    · have hlt : c.1 < a := hc (a, b) h
      rw [if_neg (Nat.ne_of_gt hlt)]
      exact ih hm h

/-- An address that reads as something else than after a reset has an entry. -/
theorem mem_of_get_ne {m : Memory} {a : Nat} (h : m.get a ≠ Memory.initial a) : (a, m.get a) ∈ m := by
  induction m with
  | nil => exact absurd rfl h
  | cons c m ih =>
    obtain ⟨k, b⟩ := c
    rw [Memory.get] at h ⊢
    split at h
    · rename_i hk
      rw [if_pos hk, hk]
      exact List.mem_cons_self
    · rename_i hk
      rw [if_neg hk]
      exact List.mem_cons_of_mem _ (ih h)

/-- Each entry of a canonical memory stands in any canonical memory that reads alike. -/
theorem mem_of_mem_of_get_eq {m n : Memory} (hm : m.wf) (hget : ∀ a, a < 4096 → m.get a = n.get a) {c : Host.Cell}
    (hc : c ∈ m) : c ∈ n := by
  obtain ⟨a, b⟩ := c
  obtain ⟨hsorted, hentries⟩ := hm
  obtain ⟨ha, hb⟩ := hentries _ hc
  have hread : n.get a = b := (hget a ha).symm.trans (get_of_mem hsorted hc)
  rw [← hread] at hb ⊢
  exact mem_of_get_ne hb

/-- Settles O22: the two lists have the same entries, and both rise. -/
theorem canonicalMemoriesThatReadAlikeAreEqual : Obligations.CanonicalMemoriesThatReadAlikeAreEqual := by
  unfold Obligations.CanonicalMemoriesThatReadAlikeAreEqual
  intro m n hm hn hget
  have hmem (c : Host.Cell) : c ∈ m ↔ c ∈ n :=
    ⟨mem_of_mem_of_get_eq hm hget, mem_of_mem_of_get_eq hn fun a ha => (hget a ha).symm⟩
  have : Std.Irrefl fun c d : Host.Cell => c.1 < d.1 := ⟨fun c => Nat.lt_irrefl c.1⟩
  have : Std.Antisymm fun c d : Host.Cell => c.1 < d.1 := ⟨fun _ _ h1 h2 => absurd h1 (Nat.lt_asymm h2)⟩
  exact hm.1.eq_of_mem_iff hn.1 hmem

end Sys2Proof.Machine
end

section
/-! PROOFS. The display (44_display.md): the extreme scrolls, LOW and HIGH, and the draw. -/

namespace Sys2Proof.Machine

/-! ### The extreme scrolls (R199) -/

/-- A plane built of zeros is the blank plane of the resolution. -/
theorem planeOf_eq_blankPlane {r : Resolution} {f : Nat → Nat → Bool} (hf : ∀ x y, x < r.width → y < r.height → f x y = false) :
    planeOf r.width r.height f = blankPlane r :=
  plane_ext (planeOf_length ..) (blankPlane_length r) fun x y hx hy => by
    rw [pixelAt_planeOf f hx hy, pixelAt_blankPlane, hf x y hx hy]

section
variable {r : Resolution} {n : Nat} (p : List Bool)

theorem scrolledDown_all (h : r.height ≤ n) : scrolledDown r n p = blankPlane r :=
  planeOf_eq_blankPlane fun _ _ _ hy => if_neg (by omega)

theorem scrolledUp_all (h : r.height ≤ n) : scrolledUp r n p = blankPlane r :=
  planeOf_eq_blankPlane fun _ _ _ _ => if_neg (by omega)

theorem scrolledRight_all (h : r.width ≤ n) : scrolledRight r n p = blankPlane r :=
  planeOf_eq_blankPlane fun _ _ hx _ => if_neg (by omega)

theorem scrolledLeft_all (h : r.width ≤ n) : scrolledLeft r n p = blankPlane r :=
  planeOf_eq_blankPlane fun _ _ _ _ => if_neg (by omega)

end

theorem scrolledDown_zero {r : Resolution} {p : List Bool} (hp : p.length = r.pixels) : scrolledDown r 0 p = p :=
  plane_ext (planeOf_length ..) hp fun _ _ hx hy => by rw [scrolledDown, pixelAt_planeOf _ hx hy]; simp

theorem scrolledUp_zero {r : Resolution} {p : List Bool} (hp : p.length = r.pixels) : scrolledUp r 0 p = p :=
  plane_ext (planeOf_length ..) hp fun _ _ hx hy => by rw [scrolledUp, pixelAt_planeOf _ hx hy]; simp [hy]

/-- A change that leaves both planes as they are leaves the state. -/
theorem mapSelected_eq_self {s : State} {f : List Bool → List Bool} (h0 : f s.plane0 = s.plane0) (h1 : f s.plane1 = s.plane1) :
    s.mapSelected f = s := by
  rw [State.mapSelected, h0, h1, ite_self, ite_self]

/-- Settles O51: pixel by pixel, nothing moves or everything moves out. -/
theorem scrollByNothingAndByEverything : Obligations.ScrollByNothingAndByEverything := by
  unfold Obligations.ScrollByNothingAndByEverything
  refine ⟨fun s ⟨h0, h1⟩ => ⟨?_, ?_⟩, fun r n p h => ⟨scrolledDown_all p h, scrolledUp_all p h⟩,
    fun r n p h => ⟨scrolledRight_all p h, scrolledLeft_all p h⟩⟩
  · rw [exec_scd, mapSelected_eq_self (scrolledDown_zero h0) (scrolledDown_zero h1)]
  · rw [exec_scu, mapSelected_eq_self (scrolledUp_zero h0) (scrolledUp_zero h1)]

/-! ### LOW and HIGH (R205, R206) -/

theorem exec_low (s : State) : exec .low s = .next ((s.setResolution .low).emit (.resolutionChanged .low)) := rfl

theorem exec_high (s : State) : exec .high s = .next ((s.setResolution .high).emit (.resolutionChanged .high)) := rfl

theorem blankPlane_low : blankPlane .low = List.replicate 2048 false := rfl

theorem blankPlane_high : blankPlane .high = List.replicate 8192 false := rfl

/-- Settles O53: the switch blanks both planes at the new size, 64 by 32 or 128 by 64, and appends one notification. -/
theorem resolutionSwitchClearsBothPlanes : Obligations.ResolutionSwitchClearsBothPlanes := by
  unfold Obligations.ResolutionSwitchClearsBothPlanes
  intro s
  rw [exec_low, exec_high, State.setResolution, State.setResolution, blankPlane_low, blankPlane_high]
  exact ⟨rfl, rfl⟩

/-! ### The source of a draw (R209, D15) -/

theorem exec_drw (x y : RegIx) (n : Nat) (s : State) : exec (.drw x y n) s =
    withRange s.i.toNat (spriteStep n * s.selectedCount) s
      (.next ({ s with
          plane0 := (s.drawn ((s.reg x).toNat % s.res.width) ((s.reg y).toNat % s.res.height) n).1
          plane1 := (s.drawn ((s.reg x).toNat % s.res.width) ((s.reg y).toNat % s.res.height) n).2.1 }.setReg vF
        (flagByte (s.drawn ((s.reg x).toNat % s.res.width) ((s.reg y).toNat % s.res.height) n).2.2))) := rfl

theorem spriteStep_ne_zero (n : Nat) : spriteStep n ≠ 0 := by
  unfold spriteStep; split <;> omega

/-- VF is register 15, the only one a draw writes. -/
theorem reg_setReg_vF_of_ne (s : State) (b : Byte) {r : RegIx} (hr : r ≠ 15) : (s.setReg vF b).reg r = s.reg r := by
  rw [reg_setReg]; exact if_neg hr

theorem selected_of_activePlane_zero {s : State} (h : s.activePlane = 0) (p : Nat) : s.selected p = false := by
  rw [State.selected, h]; exact BitVec.getLsbD_zero

/-- With no plane selected nothing is drawn. -/
theorem drawn_of_none_selected {s : State} (h : ∀ p, s.selected p = false) (x0 y0 n : Nat) :
    s.drawn x0 y0 n = (s.plane0, s.plane1, false) := by
  simp [State.drawn, h]

/-- Settles O57: the range check covers every byte of the source, and without a plane there is none. -/
theorem drawChecksTheWholeSource : Obligations.DrawChecksTheWholeSource := by
  unfold Obligations.DrawChecksTheWholeSource
  intro x y n s _
  refine ⟨fun hsel hr => aborts_of_beyond (exec_drw x y n s) (Nat.mul_ne_zero (spriteStep_ne_zero n) hsel) hr,
    fun _ hr => completes_of_inRange (exec_drw x y n s) (.inr hr) ⟨rfl, fun r h15 => reg_setReg_vF_of_ne _ _ h15⟩, fun h => ?_⟩
  have hsel := selected_of_activePlane_zero h
  have hcount : s.selectedCount = 0 := by simp [State.selectedCount, hsel]
  refine completes_of_inRange (exec_drw x y n s) (.inl (by rw [hcount, Nat.mul_zero])) ?_
  rw [drawn_of_none_selected hsel]
  exact ⟨rfl, fun r => reg_setReg _ vF r _⟩

/-! ### The pixels of a draw (R208, R209) -/

section
variable (m : Memory) (clip : Bool) (res : Resolution) (ptr n x0 y0 : Nat)

/-- The sprite's pixel at row and column `rc` is lit and lands on the screen's pixel `t`. -/
def Lands (rc t : Nat × Nat) : Prop :=
  spriteBit m ptr n rc.1 rc.2 = true ∧ spriteTarget clip res x0 y0 rc.1 rc.2 = some t

end

/-- One turn of the draw loop: toggle the pixel the sprite's pixel lands on and note an erasure, or do nothing. -/
theorem drawCell_cases (m : Memory) (clip : Bool) (res : Resolution) (ptr n x0 y0 : Nat) (acc : List Bool × Bool)
    (rc : Nat × Nat) :
    (∃ px py, Lands m clip res ptr n x0 y0 rc (px, py) ∧ drawCell m clip res ptr n x0 y0 acc rc =
      ((setPlanePixel res.width acc.1 px py).1, acc.2 || pixelAt res.width acc.1 px py)) ∨
    ((∀ t, ¬Lands m clip res ptr n x0 y0 rc t) ∧ drawCell m clip res ptr n x0 y0 acc rc = acc) := by
  unfold drawCell Lands
  cases hb : spriteBit m ptr n rc.1 rc.2 with
  | false => exact .inr ⟨by simp, rfl⟩
  | true =>
    cases ht : spriteTarget clip res x0 y0 rc.1 rc.2 with
    | none => exact .inr ⟨by simp, rfl⟩
    | some t => exact .inl ⟨t.1, t.2, ⟨rfl, rfl⟩, rfl⟩

section
variable {m : Memory} {clip : Bool} {res : Resolution} {ptr n x0 y0 : Nat}

/-- A sprite pixel lands on one pixel of the screen at most. -/
theorem lands_unique {rc : Nat × Nat} {px py qx qy : Nat} (h : Lands m clip res ptr n x0 y0 rc (px, py))
    (h' : Lands m clip res ptr n x0 y0 rc (qx, qy)) : px = qx ∧ py = qy := by
  have := Option.some.inj (h.2.symm.trans h'.2)
  simpa using this

theorem spriteCells_nodup (n : Nat) : (spriteCells n).Nodup := List.nodup_range.product List.nodup_range

/-- No two pixels of a sprite land on the same pixel of the screen. -/
theorem spriteCells_pairwise (hn : n < 16) : (spriteCells n).Pairwise fun rc rc' =>
    ∀ t, Lands m clip res ptr n x0 y0 rc t → ¬Lands m clip res ptr n x0 y0 rc' t := by
  refine (List.nodup_iff_pairwise_ne.mp (spriteCells_nodup n)).imp_of_mem ?_
  rintro ⟨r, c⟩ ⟨r', c'⟩ hrc hrc' hne t ⟨-, ht⟩ ⟨-, ht'⟩
  obtain ⟨rfl, rfl⟩ := spriteTarget_inj hn hrc hrc' ht ht'
  exact hne rfl

/-- What the draw loop does to a pixel: it is toggled exactly when some cell's sprite pixel lands on it. -/
theorem pixelAt_foldl_drawCell {cells : List (Nat × Nat)} {acc : List Bool × Bool} (hlen : acc.1.length = res.pixels)
    (hinj : cells.Pairwise fun rc rc' => ∀ t, Lands m clip res ptr n x0 y0 rc t → ¬Lands m clip res ptr n x0 y0 rc' t)
    {px py : Nat} (hx : px < res.width) :
    pixelAt res.width (cells.foldl (drawCell m clip res ptr n x0 y0) acc).1 px py = true ↔
      ¬(pixelAt res.width acc.1 px py = true ↔ ∃ rc ∈ cells, Lands m clip res ptr n x0 y0 rc (px, py)) := by
  induction cells generalizing acc with
  | nil => simp
  | cons rc cells ih =>
    obtain ⟨hrc, hinj⟩ := List.pairwise_cons.mp hinj
    rw [List.foldl_cons, ih ((drawCell_length ..).trans hlen) hinj]
    simp only [List.mem_cons, exists_eq_or_imp]
    obtain ⟨qx, qy, hland, e⟩ | ⟨hno, e⟩ := drawCell_cases m clip res ptr n x0 y0 acc rc
    · obtain ⟨hqx, hqy⟩ := spriteTarget_on_screen hland.2
      rw [e, pixelAt_setPlanePixel hlen hqx hqy hx]
      by_cases hq : px = qx ∧ py = qy
      · obtain ⟨rfl, rfl⟩ := hq
        have hnone : ¬∃ rc' ∈ cells, Lands m clip res ptr n x0 y0 rc' (px, py) := fun ⟨rc', hmem, h⟩ => hrc rc' hmem _ hland h
        simp [hland, hnone]
      · have hnot : ¬Lands m clip res ptr n x0 y0 rc (px, py) := fun h => by
          have := hland.2.symm.trans h.2
          simp_all
        simp [hq, hnot]
    · rw [e]
      simp [hno]

/-- What the draw loop reports: an erasure exactly when some cell's sprite pixel lands on a pixel that was set. -/
theorem foldl_drawCell_snd {cells : List (Nat × Nat)} {acc : List Bool × Bool} (hlen : acc.1.length = res.pixels)
    (hinj : cells.Pairwise fun rc rc' => ∀ t, Lands m clip res ptr n x0 y0 rc t → ¬Lands m clip res ptr n x0 y0 rc' t) :
    (cells.foldl (drawCell m clip res ptr n x0 y0) acc).2 = true ↔
      acc.2 = true ∨ ∃ rc ∈ cells, ∃ px py, Lands m clip res ptr n x0 y0 rc (px, py) ∧ pixelAt res.width acc.1 px py = true := by
  induction cells generalizing acc with
  | nil => simp
  | cons rc cells ih =>
    obtain ⟨hrc, hinj⟩ := List.pairwise_cons.mp hinj
    rw [List.foldl_cons, ih ((drawCell_length ..).trans hlen) hinj]
    simp only [List.mem_cons, exists_eq_or_imp]
    obtain ⟨qx, qy, hland, e⟩ | ⟨hno, e⟩ := drawCell_cases m clip res ptr n x0 y0 acc rc
    · obtain ⟨hqx, hqy⟩ := spriteTarget_on_screen hland.2
      have hself : (∃ px py, Lands m clip res ptr n x0 y0 rc (px, py) ∧ pixelAt res.width acc.1 px py = true) ↔
          pixelAt res.width acc.1 qx qy = true := by
        refine ⟨fun ⟨px, py, h, hp⟩ => ?_, fun hp => ⟨qx, qy, hland, hp⟩⟩
        obtain ⟨rfl, rfl⟩ := lands_unique h hland
        exact hp
      have hrest : ∀ rc' ∈ cells, ∀ px py, Lands m clip res ptr n x0 y0 rc' (px, py) →
          pixelAt res.width (setPlanePixel res.width acc.1 qx qy).1 px py = pixelAt res.width acc.1 px py := by
        intro rc' hmem px py h
        rw [pixelAt_setPlanePixel hlen hqx hqy (spriteTarget_on_screen h.2).1, if_neg]
        rintro ⟨rfl, rfl⟩
        exact hrc rc' hmem _ hland h
      rw [e, hself, Bool.or_eq_true, or_assoc]
      refine or_congr_right (or_congr_right ?_)
      refine exists_congr fun rc' => and_congr_right fun hmem => exists_congr fun px => exists_congr fun py => ?_
      exact and_congr_right fun h => by rw [hrest rc' hmem px py h]
    · rw [e]
      simp [hno]

end

section
variable {s : State} {ptr n x0 y0 : Nat}

/-- A cell of the sprite lands on a pixel exactly when the sprite lights it. -/
theorem exists_lands_iff_spriteLights {px py : Nat} :
    (∃ rc ∈ spriteCells n, Lands s.mem s.inp.quirks.clipSprites s.res ptr n x0 y0 rc (px, py)) ↔
      spriteLights s ptr n x0 y0 px py := by
  have hcols : 8 * spriteBytesPerRow n = if n = 0 then 16 else 8 := by unfold spriteBytesPerRow; split <;> rfl
  simp only [Prod.exists, mem_spriteCells, hcols, Lands, spriteTarget_eq_some, spriteBit, and_assoc]
  rfl

/-- A sprite lights pixels of the screen only. -/
theorem on_screen_of_spriteLights {px py : Nat} (h : spriteLights s ptr n x0 y0 px py) :
    px < s.res.width ∧ py < s.res.height := by
  obtain ⟨rc, -, -, ht⟩ := exists_lands_iff_spriteLights.mpr h
  exact spriteTarget_on_screen ht

/-- A plane after a draw that is selected or not: its size, its pixels, and whether one was erased (R209). -/
theorem drawPlane_if_selected {sel : Bool} {p : List Bool} {d : List Bool × Bool} (hn : n < 16) (hp : p.length = s.res.pixels)
    (hd : d = if sel = true then drawPlane s.mem s.inp.quirks.clipSprites s.res ptr n x0 y0 p else (p, false)) :
    d.1.length = s.res.pixels ∧
    (∀ px py, px < s.res.width → (pixelAt s.res.width d.1 px py = true ↔
      ¬(pixelAt s.res.width p px py = true ↔ sel = true ∧ spriteLights s ptr n x0 y0 px py))) ∧
    (d.2 = true ↔ ∃ px py, px < s.res.width ∧ py < s.res.height ∧
      pixelAt s.res.width p px py = true ∧ sel = true ∧ spriteLights s ptr n x0 y0 px py) := by
  cases sel with
  | false =>
    rw [if_neg Bool.false_ne_true] at hd
    subst hd
    exact ⟨hp, by simp, by simp⟩
  | true =>
    rw [if_pos rfl] at hd
    subst hd
    refine ⟨(drawPlane_length ..).trans hp, fun px py hx => ?_, ?_⟩
    · rw [drawPlane, pixelAt_foldl_drawCell hp (spriteCells_pairwise hn) hx, exists_lands_iff_spriteLights]
      simp
    · rw [drawPlane, foldl_drawCell_snd hp (spriteCells_pairwise hn)]
      constructor
      · rintro (hfalse | ⟨rc, hmem, px, py, hland, hpix⟩)
        · cases hfalse
        have hlit := exists_lands_iff_spriteLights.mp ⟨rc, hmem, hland⟩
        obtain ⟨hx, hy⟩ := on_screen_of_spriteLights hlit
        exact ⟨px, py, hx, hy, hpix, rfl, hlit⟩
      · rintro ⟨px, py, -, -, hpix, -, hlit⟩
        obtain ⟨rc, hmem, hland⟩ := exists_lands_iff_spriteLights.mpr hlit
        exact .inr ⟨rc, hmem, px, py, hland, hpix⟩

end

/-- Plane 1's data starts behind plane 0's when plane 0 is selected (R208, R210). -/
theorem spritePtr1_eq (s : State) (n : Nat) :
    s.spritePtr1 n = if s.selected 0 = true then s.i.toNat + spriteStep n else s.i.toNat := by
  unfold State.spritePtr1
  split <;> rfl

theorem flagByte_eq_one_iff (b : Bool) : flagByte b = 1 ↔ b = true := by cases b <;> decide

theorem flagByte_eq_one_or_zero (b : Bool) : flagByte b = 1 ∨ flagByte b = 0 := by cases b <;> decide

/-- Settles O56: each selected plane is drawn by the loop, whose cells land on different pixels, and VF is the flag of either plane's
erasure. -/
theorem drawTogglesTheLitPixelsAndReportsErasure : Obligations.DrawTogglesTheLitPixelsAndReportsErasure := by
  unfold Obligations.DrawTogglesTheLitPixelsAndReportsErasure
  rintro x y n s x0 y0 ptr1 hn ⟨hp0, hp1⟩ rfl rfl hptr1 hr
  obtain rfl : ptr1 = s.spritePtr1 n := hptr1.trans (spritePtr1_eq s n).symm
  obtain ⟨hlen0, hpix0, herased0⟩ := drawPlane_if_selected (sel := s.selected 0) (ptr := s.i.toNat)
    (x0 := (s.reg x).toNat % s.res.width) (y0 := (s.reg y).toNat % s.res.height) hn hp0 rfl
  obtain ⟨hlen1, hpix1, herased1⟩ := drawPlane_if_selected (sel := s.selected 1) (ptr := s.spritePtr1 n)
    (x0 := (s.reg x).toNat % s.res.width) (y0 := (s.reg y).toNat % s.res.height) hn hp1 rfl
  refine completes_of_inRange (exec_drw x y n s) (hr.imp_left fun h0 => by rw [h0, Nat.mul_zero]) ⟨rfl, hlen0, hlen1,
    fun px py hx _ => ⟨hpix0 px py hx, hpix1 px py hx⟩, ?_, ?_, fun r h15 => reg_setReg_vF_of_ne _ _ h15⟩
  · exact reg_setReg _ vF 15 _ ▸ flagByte_eq_one_or_zero _
  · rw [reg_setReg, show (15 : RegIx) = vF from rfl, if_pos rfl, flagByte_eq_one_iff]
    refine (Bool.or_eq_true ..).to_iff.trans ((or_congr herased0 herased1).trans ?_)
    simp only [← exists_or, ← and_or_left]

end Sys2Proof.Machine
end
